-- ==== Sys2Proof/Word.lean ====
section
/-! DEFINITION. The word types of the spec (00_scope.md R7, R8; 30_encoding.md R71). -/

namespace Sys2Proof

/-- `u8`: one byte of a byte string (R7, R8). -/
abbrev Byte := BitVec 8

/-- A byte string, byte 0 (the first on the wire) first (R7, R53). -/
abbrev Bytes := List Byte

/-- The 64-bit port of an IEEE 754 binary64 value: sign 63, biased exponent 62:52, fraction 51:0 (R8). -/
abbrev F64 := BitVec 64

/-- A Command Record as the 48-bit hardware word of R71. -/
abbrev Record := BitVec 48

/-- CR LF (R9). -/
def crlf : Bytes := [0x0D, 0x0A]

end Sys2Proof
end

