-- ==== Sys2Proof/Syntax.lean ====
section
/-! DEFINITION. The Command Record as an instruction (30_encoding.md R70 to R74, R87): one constructor per row of
spec/opcode_table.json. -/

namespace Sys2Proof

/-- The verbs (`primary`) of R72, in its order. -/
inductive Verb where
  | addressQuery | acknowledge | identification | addressChange | measurement | concurrentMeasurement
  | highVolumeASCII | highVolumeByte | continuousMeasurement | dataRequest | byteDataRequest | verification
  | unknown
  deriving DecidableEq, Repr, Inhabited

/-- The qualifier of a verb that admits `secondary` None or CRC (R73). -/
inductive Qualifier where
  | plain
  | crc
  deriving DecidableEq, Repr, Inhabited

/-- One Command Record. Every constructor keeps every field of the record, so that no bit of the word is lost;
`unknown` keeps the two fields no other row admits (R83). -/
inductive Instr where
  /-- AQRY, R163 -/
  | aqry (address : Byte) (param1 param2 : BitVec 16)
  /-- ACK, R164 -/
  | ack (address : Byte) (param1 param2 : BitVec 16)
  /-- IDENT, R165 -/
  | ident (address : Byte) (param1 param2 : BitVec 16)
  /-- IDENT.M, R195 -/
  | identM (address : Byte) (param1 param2 : BitVec 16)
  /-- IDENT.C, R203 -/
  | identC (address : Byte) (param1 param2 : BitVec 16)
  /-- IDENT.R, R213 -/
  | identR (address : Byte) (param1 param2 : BitVec 16)
  /-- IDENT.HA, R208 -/
  | identHA (address : Byte) (param1 param2 : BitVec 16)
  /-- IDENT.HB, R210 -/
  | identHB (address : Byte) (param1 param2 : BitVec 16)
  /-- IDENT.V, R215 -/
  | identV (address : Byte) (param1 param2 : BitVec 16)
  /-- ACHG, R166 -/
  | achg (address : Byte) (param1 param2 : BitVec 16)
  /-- MEAS, R192 -/
  | meas (address : Byte) (q : Qualifier) (param1 param2 : BitVec 16)
  /-- CONC, R200 -/
  | conc (address : Byte) (q : Qualifier) (param1 param2 : BitVec 16)
  /-- HVA, R207 -/
  | hva (address : Byte) (q : Qualifier) (param1 param2 : BitVec 16)
  /-- HVB, R209 -/
  | hvb (address : Byte) (q : Qualifier) (param1 param2 : BitVec 16)
  /-- CONT, R211 -/
  | cont (address : Byte) (q : Qualifier) (param1 param2 : BitVec 16)
  /-- DATA, R169 -/
  | data (address : Byte) (q : Qualifier) (param1 param2 : BitVec 16)
  /-- BDATA, R171 -/
  | bdata (address : Byte) (q : Qualifier) (param1 param2 : BitVec 16)
  /-- VERIFY, R214 -/
  | verify (address : Byte) (q : Qualifier) (param1 param2 : BitVec 16)
  /-- UNKNOWN, R172: `primary` 12 to 15, or any pair R73 does not admit (R83) -/
  | unknown (address : Byte) (primary secondary : BitVec 4) (param1 param2 : BitVec 16)
  deriving DecidableEq, Repr, Inhabited

/-- The `address` field of the record (R70). -/
def Instr.address : Instr → Byte
  | .aqry a _ _ | .ack a _ _ | .ident a _ _ | .identM a _ _ | .identC a _ _ | .identR a _ _ | .identHA a _ _
  | .identHB a _ _ | .identV a _ _ | .achg a _ _ => a
  | .meas a _ _ _ | .conc a _ _ _ | .hva a _ _ _ | .hvb a _ _ _ | .cont a _ _ _ | .data a _ _ _ | .bdata a _ _ _
  | .verify a _ _ _ => a
  | .unknown a _ _ _ _ => a

/-- The `param1` field of the record (R70, R76). -/
def Instr.param1 : Instr → BitVec 16
  | .aqry _ p _ | .ack _ p _ | .ident _ p _ | .identM _ p _ | .identC _ p _ | .identR _ p _ | .identHA _ p _
  | .identHB _ p _ | .identV _ p _ | .achg _ p _ => p
  | .meas _ _ p _ | .conc _ _ p _ | .hva _ _ p _ | .hvb _ _ p _ | .cont _ _ p _ | .data _ _ p _ | .bdata _ _ p _
  | .verify _ _ p _ => p
  | .unknown _ _ _ p _ => p

/-- The `param2` field of the record (R70); read by no rule (R76). -/
def Instr.param2 : Instr → BitVec 16
  | .aqry _ _ p | .ack _ _ p | .ident _ _ p | .identM _ _ p | .identC _ _ p | .identR _ _ p | .identHA _ _ p
  | .identHB _ _ p | .identV _ _ p | .achg _ _ p => p
  | .meas _ _ _ p | .conc _ _ _ p | .hva _ _ _ p | .hvb _ _ _ p | .cont _ _ _ p | .data _ _ _ p | .bdata _ _ _ p
  | .verify _ _ _ p => p
  | .unknown _ _ _ _ p => p

/-- The row of spec/opcode_table.json. -/
def Instr.mnemonic : Instr → String
  | .aqry .. => "AQRY" | .ack .. => "ACK" | .ident .. => "IDENT" | .identM .. => "IDENT.M" | .identC .. => "IDENT.C"
  | .identR .. => "IDENT.R" | .identHA .. => "IDENT.HA" | .identHB .. => "IDENT.HB" | .identV .. => "IDENT.V"
  | .achg .. => "ACHG" | .meas .. => "MEAS" | .conc .. => "CONC" | .hva .. => "HVA" | .hvb .. => "HVB"
  | .cont .. => "CONT" | .data .. => "DATA" | .bdata .. => "BDATA" | .verify .. => "VERIFY"
  | .unknown .. => "UNKNOWN"

/-- `is_probe` (R74). -/
def Instr.isProbe : Instr → Bool
  | .identM .. | .identC .. | .identR .. | .identHA .. | .identHB .. | .identV .. => true
  | .aqry .. | .ack .. | .ident .. | .achg .. | .meas .. | .conc .. | .hva .. | .hvb .. | .cont .. | .data ..
  | .bdata .. | .verify .. | .unknown .. => false

/-- `mclass` (R74): the verb a probe asks about, else `primary`. A plain IDENT, whose `secondary` is None, keeps its
own verb. -/
def Instr.mclass : Instr → Verb
  | .aqry .. => .addressQuery
  | .ack .. => .acknowledge
  | .ident .. => .identification
  | .identM .. | .meas .. => .measurement
  | .identC .. | .conc .. => .concurrentMeasurement
  | .identR .. | .cont .. => .continuousMeasurement
  | .identHA .. | .hva .. => .highVolumeASCII
  | .identHB .. | .hvb .. => .highVolumeByte
  | .identV .. | .verify .. => .verification
  | .achg .. => .addressChange
  | .data .. => .dataRequest
  | .bdata .. => .byteDataRequest
  | .unknown .. => .unknown

/-- `measurement_class` (R74). -/
def Verb.measurementClass : Verb → Bool
  | .measurement | .concurrentMeasurement | .highVolumeASCII | .highVolumeByte | .continuousMeasurement
  | .verification => true
  | .addressQuery | .acknowledge | .identification | .addressChange | .dataRequest | .byteDataRequest
  | .unknown => false

end Sys2Proof
end

