-- ==== Sys2Proof/WellFormed.lean ====
section
/-! DEFINITION. Which terms of Instr are Command Records of the spec (30_encoding.md R73, R83). The types of the
fields settle everything but one point: `unknown` may hold only a pair that no other row admits. -/

namespace Sys2Proof

/-- The pairs (`primary`, `secondary`) admitted by R73 for a verb other than Unknown. -/
def admitted (primary secondary : BitVec 4) : Bool :=
  match primary.toNat with
  | 0 | 1 | 3 => secondary == 0
  | 2 => decide (secondary.toNat ≤ 6)
  | 4 | 5 | 6 | 7 | 8 | 9 | 10 | 11 => secondary == 0 || secondary == 7
  | _ => false

/-- A well-formed record: the pair of an `unknown` is not an admitted one. -/
def WellFormed : Instr → Bool
  | .unknown _ pr se _ _ => !admitted pr se
  | .aqry .. | .ack .. | .ident .. | .identM .. | .identC .. | .identR .. | .identHA .. | .identHB .. | .identV ..
  | .achg .. | .meas .. | .conc .. | .hva .. | .hvb .. | .cont .. | .data .. | .bdata .. | .verify .. => true

end Sys2Proof
end

