-- ==== Sys2Proof/Decode.lean ====
section
/-! DEFINITION. The decoder of the 48-bit Command Record (30_encoding.md R71 to R73, R83, R87), total: a word no
other row admits is UNKNOWN by name. After it the encoder, and the opcode table as the spec's decode order reads it. -/

namespace Sys2Proof

/-- `address`, bits 47:40 (R71). -/
def Record.address (w : Record) : Byte := w.extractLsb' 40 8

/-- `primary`, bits 39:36 (R71). -/
def Record.primary (w : Record) : BitVec 4 := w.extractLsb' 36 4

/-- `secondary`, bits 35:32 (R71). -/
def Record.secondary (w : Record) : BitVec 4 := w.extractLsb' 32 4

/-- `param1`, bits 31:16 (R71). -/
def Record.param1 (w : Record) : BitVec 16 := w.extractLsb' 16 16

/-- `param2`, bits 15:0 (R71). -/
def Record.param2 (w : Record) : BitVec 16 := w.extractLsb' 0 16

/-- The verdict on a record given by its fields (R72, R73, R83). -/
def decodeFields (a : Byte) (pr se : BitVec 4) (p1 p2 : BitVec 16) : Instr :=
  match pr.toNat, se.toNat with
  | 0, 0 => .aqry a p1 p2
  | 1, 0 => .ack a p1 p2
  | 2, 0 => .ident a p1 p2
  | 2, 1 => .identM a p1 p2
  | 2, 2 => .identC a p1 p2
  | 2, 3 => .identR a p1 p2
  | 2, 4 => .identHA a p1 p2
  | 2, 5 => .identHB a p1 p2
  | 2, 6 => .identV a p1 p2
  | 3, 0 => .achg a p1 p2
  | 4, 0 => .meas a .plain p1 p2
  | 4, 7 => .meas a .crc p1 p2
  | 5, 0 => .conc a .plain p1 p2
  | 5, 7 => .conc a .crc p1 p2
  | 6, 0 => .hva a .plain p1 p2
  | 6, 7 => .hva a .crc p1 p2
  | 7, 0 => .hvb a .plain p1 p2
  | 7, 7 => .hvb a .crc p1 p2
  | 8, 0 => .cont a .plain p1 p2
  | 8, 7 => .cont a .crc p1 p2
  | 9, 0 => .data a .plain p1 p2
  | 9, 7 => .data a .crc p1 p2
  | 10, 0 => .bdata a .plain p1 p2
  | 10, 7 => .bdata a .crc p1 p2
  | 11, 0 => .verify a .plain p1 p2
  | 11, 7 => .verify a .crc p1 p2
  | _, _ => .unknown a pr se p1 p2

/-- The decoder (R83: "The decoder is total: every 48-bit word has a verdict"). -/
def decode (w : Record) : Instr :=
  decodeFields (Record.address w) (Record.primary w) (Record.secondary w) (Record.param1 w) (Record.param2 w)

/-- The word of R71 from its fields. -/
def encodeFields (a : Byte) (pr se : BitVec 4) (p1 p2 : BitVec 16) : Record :=
  (a ++ pr ++ se ++ p1 ++ p2 : BitVec (8 + 4 + 4 + 16 + 16))

/-- The `secondary` code of a qualifier: None 0, CRC 7 (R73). -/
def Qualifier.code : Qualifier → BitVec 4
  | .plain => 0
  | .crc => 7

/-- The `primary` field of an instruction's word (R72). -/
def Instr.primaryCode : Instr → BitVec 4
  | .aqry .. => 0
  | .ack .. => 1
  | .ident .. | .identM .. | .identC .. | .identR .. | .identHA .. | .identHB .. | .identV .. => 2
  | .achg .. => 3
  | .meas .. => 4
  | .conc .. => 5
  | .hva .. => 6
  | .hvb .. => 7
  | .cont .. => 8
  | .data .. => 9
  | .bdata .. => 10
  | .verify .. => 11
  | .unknown _ pr _ _ _ => pr

/-- The `secondary` field of an instruction's word (R73). -/
def Instr.secondaryCode : Instr → BitVec 4
  | .aqry .. | .ack .. | .ident .. | .achg .. => 0
  | .identM .. => 1
  | .identC .. => 2
  | .identR .. => 3
  | .identHA .. => 4
  | .identHB .. => 5
  | .identV .. => 6
  | .meas _ q _ _ | .conc _ q _ _ | .hva _ q _ _ | .hvb _ q _ _ | .cont _ q _ _ | .data _ q _ _ | .bdata _ q _ _
  | .verify _ q _ _ => q.code
  | .unknown _ _ se _ _ => se

/-- The encoder: the 48-bit word of an instruction (R71 to R73). -/
def encode (i : Instr) : Record :=
  encodeFields i.address i.primaryCode i.secondaryCode i.param1 i.param2

/-- One row of spec/opcode_table.json: its mask and match over the layout of R71, and the values of `secondary` it
admits (R87). -/
structure OpcodeRow where
  mnemonic : String
  mask : Record
  pattern : Record
  admits : List (BitVec 4)
  deriving DecidableEq, Repr

/-- The seven Identification rows of spec/opcode_table.json. -/
def identificationRows : List OpcodeRow :=
  [ ⟨"IDENT", 0x00FF00000000, 0x002000000000, [0]⟩,
    ⟨"IDENT.M", 0x00FF00000000, 0x002100000000, [1]⟩,
    ⟨"IDENT.C", 0x00FF00000000, 0x002200000000, [2]⟩,
    ⟨"IDENT.R", 0x00FF00000000, 0x002300000000, [3]⟩,
    ⟨"IDENT.HA", 0x00FF00000000, 0x002400000000, [4]⟩,
    ⟨"IDENT.HB", 0x00FF00000000, 0x002500000000, [5]⟩,
    ⟨"IDENT.V", 0x00FF00000000, 0x002600000000, [6]⟩ ]

/-- The eleven other verb rows of spec/opcode_table.json. -/
def verbRows : List OpcodeRow :=
  [ ⟨"AQRY", 0x00F000000000, 0x000000000000, [0]⟩,
    ⟨"ACK", 0x00F000000000, 0x001000000000, [0]⟩,
    ⟨"ACHG", 0x00F000000000, 0x003000000000, [0]⟩,
    ⟨"MEAS", 0x00F000000000, 0x004000000000, [0, 7]⟩,
    ⟨"CONC", 0x00F000000000, 0x005000000000, [0, 7]⟩,
    ⟨"HVA", 0x00F000000000, 0x006000000000, [0, 7]⟩,
    ⟨"HVB", 0x00F000000000, 0x007000000000, [0, 7]⟩,
    ⟨"CONT", 0x00F000000000, 0x008000000000, [0, 7]⟩,
    ⟨"DATA", 0x00F000000000, 0x009000000000, [0, 7]⟩,
    ⟨"BDATA", 0x00F000000000, 0x00A000000000, [0, 7]⟩,
    ⟨"VERIFY", 0x00F000000000, 0x00B000000000, [0, 7]⟩ ]

/-- Does a row's mask and match take the word? -/
def OpcodeRow.hits (r : OpcodeRow) (w : Record) : Bool := w &&& r.mask == r.pattern

/-- The verdict by R87's decoding order: the seven Identification rows, the eleven verb rows; if none matches, or the
matched row's `secondary` is not admitted, UNKNOWN. -/
def tableVerdict (w : Record) : String :=
  match (identificationRows ++ verbRows).find? (fun r => r.hits w) with
  | some r => if r.admits.contains (Record.secondary w) then r.mnemonic else "UNKNOWN"
  | none => "UNKNOWN"

/-- The instruction the decoder reads from a word whose bits are `w`, bit 0 the least significant of the record's one
word (R71; a record is "delivered whole"). The record has 48 bits: a wider or overfull word is no record. -/
def decodeTableWord (nbits w : Nat) : Option Instr :=
  if nbits ≤ 48 ∧ w < 2 ^ nbits then some (decode (BitVec.ofNat 48 w)) else none

end Sys2Proof
end

