-- ==== Sys2Proof/Config.lean ====
section
/-! DEFINITION. What an implementation fixes (00_scope.md R6, the OPEN parameters and the two switches the spec
keeps for both readings), what the environment answers during a cycle (R10), and the uninterpreted functions and
free values. The parameters R6 gives a value to stand in Machine/Params.lean. -/

namespace Sys2Proof

/-- `NUM_VALUES` (R6): the length of the sequence the measurement source returns. -/
abbrev numValues : Nat := 9

/-- The answer of one `Poll()` (R249): NUM_VALUES unconstrained binary64 values. -/
abbrev Values := Vector F64 numValues

/-- `cfg.slot` and `cfg.initial_address` of one device (70_reset_and_hazards.md R260). -/
structure DeviceConfig where
  slot : Option Nat
  initialAddress : Byte
  deriving DecidableEq, Repr, Inhabited

/-- The parameters of R6 that stay OPEN (no rule may assume a value) or that the spec keeps switchable
(PACK_STRICT, CANCEL_CMD_RETAINED), fixed for a run (R36). `NDEV` is the length of `devices`. -/
structure Config where
  /-- `LINE_SLOTS` -/
  lineSlots : Nat
  /-- `FIELD_CAP` -/
  fieldCap : BitVec 8
  /-- `IDENT_STRING` -/
  identString : Bytes
  /-- `REJECT_PAYLOAD` -/
  rejectPayload : Bytes
  /-- `CONT_PROBE_TOKEN` -/
  contProbeToken : Bytes
  /-- `PACK_STRICT` -/
  packStrict : Bool
  /-- `CANCEL_CMD_RETAINED` -/
  cancelCmdRetained : Bool
  /-- one entry per device, in index order -/
  devices : List DeviceConfig
  deriving DecidableEq, Repr, Inhabited

/-- What the environment supplies during one acquisition (R10, and R235 for `framing`). -/
structure Env where
  /-- the answer of `Poll()`; `none`: the call never returns (R255) -/
  vals : Option Values
  /-- the answer of `LineBreak()` at the checkpoint -/
  lb : Bool
  /-- the host deactivates the device in the acquisition window (R252) -/
  deact : Bool
  /-- the answer of `Drain()`: the complete commands found, in arrival order -/
  newcmds : List Record
  /-- `available()` went negative inside `Drain()` (R235) -/
  framing : Bool
  deriving DecidableEq, Repr, Inhabited

/-- `crc_ascii` (R6, R250): uninterpreted, total, exactly three bytes. Log entry 5. -/
opaque Config.crcAscii : Bytes → Vector Byte 3

/-- `crc_raw` (R6, R250): uninterpreted, total. Log entry 5. -/
opaque Config.crcRaw : Bytes → BitVec 16

/-- FREE VALUE: what the environment answers at the `n`-th acquisition when State lists no answer for it
(R10, R249: "The model draws them freely"). Log entry 2. -/
opaque Config.freeEnv : Nat → Env

/-- FREE VALUE: the bits of the NaN that `fsub` returns (R8 does not say which NaN it is). Log entry 27. -/
opaque Config.freeSubNaN : F64 → F64 → F64

/-- FREE VALUE: the bits of the NaN that `fmul` returns (R8 does not say which NaN it is). Log entry 27. -/
opaque Config.freeMulNaN : F64 → F64 → F64

/-- FREE VALUE: the IDENT_STRING of the reset configuration (R6: OPEN). Log entry 4. -/
opaque Config.openIdentString : Bytes

/-- FREE VALUE: the REJECT_PAYLOAD of the reset configuration (R6: OPEN). Log entry 4. -/
opaque Config.openRejectPayload : Bytes

/-- FREE VALUE: the CONT_PROBE_TOKEN of the reset configuration (R6: OPEN). Log entry 4. -/
opaque Config.openContProbeToken : Bytes

/-- The configuration State.reset is built with: the conventions of 95_test_vectors.md (one device, address '0',
no storage slot, FIELD_CAP 9, LINE_SLOTS 10, PACK_STRICT, CANCEL_CMD_RETAINED). DESIGN CHOICE, log entry 3: the
spec leaves these OPEN, and every statement but those about State.reset itself quantifies over the configuration. -/
def Config.default : Config where
  lineSlots := 10
  fieldCap := 9
  identString := Config.openIdentString
  rejectPayload := Config.openRejectPayload
  contProbeToken := Config.openContProbeToken
  packStrict := true
  cancelCmdRetained := true
  devices := [{ slot := none, initialAddress := 0x30 }]

end Sys2Proof
end

