-- ==== Sys2Proof/Machine/Memory.lean ====
section
/-! DEFINITION. Persistent byte storage (20_memory.md R50, R56): bytes by storage index, in one canonical form. -/

namespace Sys2Proof.Machine

/-- The bytes of persistent storage: (index, byte), indexes strictly rising, no entry equal to `erasedByte`. -/
abbrev Memory := List Host.Cell

/-- What a storage byte that nothing has written reads as: an erased cell. DESIGN CHOICE, log entry 10 (R56: "what it
returns before any write is an input of reset"). -/
def erasedByte : Byte := 0xFF

/-- `StorageRead` (R56): no side effect; every index exists (R63 leaves which do to the platform). -/
def Memory.read : Memory → Nat → Byte
  | [], _ => erasedByte
  | (k, b) :: rest, a => if k = a then b else Memory.read rest a

/-- `StorageWrite` (R56), keeping the canonical form. -/
def Memory.write : Memory → Nat → Byte → Memory
  | [], a, v => if v = erasedByte then [] else [(a, v)]
  | (k, b) :: rest, a, v =>
    if a < k then (if v = erasedByte then (k, b) :: rest else (a, v) :: (k, b) :: rest)
    else if a = k then (if v = erasedByte then rest else (a, v) :: rest)
    else (k, b) :: Memory.write rest a v

/-- The canonical form from index `lo` on. -/
def Memory.wfFrom : Nat → Memory → Bool
  | _, [] => true
  | lo, (k, b) :: rest => decide (lo ≤ k) && b != erasedByte && Memory.wfFrom (k + 1) rest

/-- The canonical form: indexes strictly rising, no entry equal to what an unlisted index reads as. -/
def Memory.wf (m : Memory) : Bool := Memory.wfFrom 0 m

end Sys2Proof.Machine
end

