-- ==== Sys2Proof/Machine/Params.lean ====
section
/-! DEFINITION. The parameters of 00_scope.md R6 that have a value, the timing tokens of 30_encoding.md R80, and the
byte constants of R7. -/

namespace Sys2Proof.Machine

/-- `DEFAULT_ADDRESS` (R6): '0'. -/
def defaultAddress : Byte := 0x30

/-- The wildcard address '?' (R70, R84). -/
def wildcard : Byte := 0x3F

/-- `SHORT_CAP` (R6). -/
def shortCap : Nat := 35

/-- `LONG_CAP` (R6). -/
def longCap : Nat := 75

/-- `PACK_PRECISION` (R6), a u8 port of ENCODE. -/
def packPrecision : BitVec 8 := 6

/-- `PACK_PLUS` (R6). -/
def packPlus : Bool := true

/-- `PACK_KTZ` (R6). -/
def packKtz : Bool := false

/-- `MAX_PRECISION` (R6). -/
def maxPrecision : Nat := 9

/-- `BIG_THRESH` (R6): 2147483647 as a binary64 (bits from 95_test_vectors.md 2.1). -/
def bigThresh : F64 := 0x41DFFFFFFFC00000

/-- `RND_THRESH` (R6): the binary64 nearest to 0.499 (bits from 95_test_vectors.md 2.1). -/
def rndThresh : F64 := 0x3FDFEF9DB22D0E56

/-- 0.5, the tie of R110 and R112. -/
def halfF64 : F64 := 0x3FE0000000000000

/-- `TERMINATOR` (R6, R117). -/
def terminator : Byte := 0x00

/-- '+' -/
def plusSign : Byte := 0x2B

/-- '-' -/
def minusSign : Byte := 0x2D

/-- '.' -/
def point : Byte := 0x2E

/-- The Overflow token "NaN" (R116). -/
def nanToken : Bytes := [0x4E, 0x61, 0x4E]

/-- The Measurement token "0219" (R80). -/
def tokMeasurement : Bytes := [0x30, 0x32, 0x31, 0x39]

/-- The all-zero token "0000" of Measurement and of Verify (R80). -/
def tokZero4 : Bytes := [0x30, 0x30, 0x30, 0x30]

/-- The Concurrent token "02109" (R80). -/
def tokConcurrent : Bytes := [0x30, 0x32, 0x31, 0x30, 0x39]

/-- The all-zero token "00000" of Concurrent (R80). -/
def tokZero5 : Bytes := [0x30, 0x30, 0x30, 0x30, 0x30]

/-- The HighVolumeMeasurement token "021009" (R80). -/
def tokHighVolume : Bytes := [0x30, 0x32, 0x31, 0x30, 0x30, 0x39]

/-- The all-zero token "000000" of HighVolumeMeasurement (R80, D30). -/
def tokZero6 : Bytes := [0x30, 0x30, 0x30, 0x30, 0x30, 0x30]

/-- Alphanumeric (R11): a byte in '0'..'9', 'A'..'Z' or 'a'..'z'. -/
def alphanumeric (b : Byte) : Bool :=
  (decide (0x30 ≤ b.toNat) && decide (b.toNat ≤ 0x39)) ||
  (decide (0x41 ≤ b.toNat) && decide (b.toNat ≤ 0x5A)) ||
  (decide (0x61 ≤ b.toNat) && decide (b.toNat ≤ 0x7A))

end Sys2Proof.Machine
end

