-- ==== Sys2Proof/Machine/State.lean ====
section
/-! DEFINITION. Everything the spec gives the machine (10_state.md), as plain data, and the machine right after reset
(10_state.md R34, 70_reset_and_hazards.md R260). -/

namespace Sys2Proof.Machine

/-- The seven values of the `state` register (R24). -/
inductive DevState where
  | lowPower | ready | measurement | concurrent | highVolumeMeasurement | continuous | verify
  deriving DecidableEq, Repr, Inhabited

/-- The 3-bit number of a state (R24, D4); the value 7 is never written. -/
def DevState.code : DevState → BitVec 3
  | .lowPower => 0
  | .ready => 1
  | .measurement => 2
  | .concurrent => 3
  | .highVolumeMeasurement => 4
  | .continuous => 5
  | .verify => 6

/-- The registers of one Device (R20) and its Response Line Set (R27). -/
structure Device where
  /-- R21 -/
  address : Byte
  /-- R22 -/
  storageSlot : Option Nat
  /-- R23 -/
  active : Bool
  /-- R24 -/
  state : DevState
  /-- R25 -/
  crcRequested : Bool
  /-- R27: slot 0 first -/
  lines : List Bytes
  deriving DecidableEq, Repr, Inhabited

/-- The observable effects of a cycle (R10). -/
inductive Effect where
  | send (bytes : Bytes)
  | delay
  | poll
  | drain
  | clearLineBreak
  | forceListen
  | clearBuffer
  | storageWrite (slot : Nat) (b : Byte)
  deriving DecidableEq, Repr, Inhabited

/-- What reaches the engine between cycles (R252, R274; R83 and R235 for the two that carry no record). -/
inductive Input where
  /-- the external parser delivers a complete Command Record -/
  | record (w : Record)
  /-- malformed text: the parser yields nothing (R83) -/
  | malformed
  /-- `available()` is negative (R235) -/
  | framingError
  /-- the host calls `SetAddress(dev, b)` (R167, R252) -/
  | setAddress (d : Nat) (b : Byte)
  /-- the host writes `state <- LowPower` (R252) -/
  | setLowPower (d : Nat)
  /-- the host writes `state` back to Ready (R252) -/
  | setReady (d : Nat)
  /-- the host sets `active` by hand, which R252 forbids (R236, U23) -/
  | forceActive (d : Nat) (v : Bool)
  /-- the host sets the registry by hand, which R252 forbids (R236, U23) -/
  | forceRegistry (r : Option Nat)
  deriving DecidableEq, Repr, Inhabited

/-- The machine's state. -/
@[ext]
structure State where
  /-- the configuration (R36): fixed for a run, written by no step -/
  cfg : Config
  /-- the Devices, in index order (R20) -/
  devices : List Device
  /-- the last-active registry (R26) -/
  registry : Option Nat
  /-- Command Records that `Drain()` found, in arrival order (R32, R239) -/
  pending : List Record
  /-- persistent storage (R50, R56) -/
  storage : Memory
  /-- the model's own: what arrives between cycles, oldest first (R274) -/
  inputs : List Input
  /-- the model's own: the `env` records the coming acquisitions draw, in order (R10) -/
  envs : List Env
  /-- the model's own: how many `env` records were drawn, the argument of Config.freeEnv -/
  drawn : Nat
  /-- the model's own: a `Poll()` that never returns holds the engine (R255) -/
  blocked : Bool
  /-- the model's own: the boolean the latest host call of SetAddress returned (R167) -/
  hostResult : Option Bool
  /-- the effects emitted since reset, oldest first (R10) -/
  trace : List Effect
  deriving DecidableEq, Repr

/-- The one fault of the model. -/
inductive Fault where
  /-- ContractViolation(d) (R236): raised by the dispatch of a command that device `d` would answer while some device is
  active or the registry is occupied. Safe: the spec gives the step no successor state. -/
  | contractViolation (device : Nat)
  deriving DecidableEq, Repr

/-- Why the model gives a step no meaning. -/
inductive Refusal where
  /-- An instruction exec has no meaning for; raised by exec alone. Safe. -/
  | notModelled (mnemonic : String)
  /-- The values of device `d`'s acquisition need a line beyond LINE_SLOTS; raised by a MEAS, CONC or HVA cycle that
  packs (R146, U14: "a model refuses it (a refusal, not a fault of the chip)"). Safe. -/
  | lineSlotsExhausted (device : Nat)
  deriving DecidableEq, Repr

/-- The address a device takes at reset (R260): a stored alphanumeric byte, else the configured initial address if it
is alphanumeric, else DEFAULT_ADDRESS. -/
def resetAddress (storage : Memory) (c : DeviceConfig) : Byte :=
  let a := match c.slot with
    | some s => if alphanumeric (storage.read s) then storage.read s else c.initialAddress
    | none => c.initialAddress
  if alphanumeric a then a else defaultAddress

/-- One device after RESET (R260). -/
def resetDevice (lineSlots : Nat) (storage : Memory) (c : DeviceConfig) : Device where
  address := resetAddress storage c
  storageSlot := c.slot
  active := false
  state := .ready
  crcRequested := false
  lines := List.replicate lineSlots []

/-- Device construction under any configuration and any contents of persistent storage (R260). -/
def State.boot (cfg : Config) (storage : Memory) : State where
  cfg := cfg
  devices := cfg.devices.map (resetDevice cfg.lineSlots storage)
  registry := none
  pending := []
  storage := storage
  inputs := []
  envs := []
  drawn := 0
  blocked := false
  hostResult := none
  trace := [.forceListen]

/-- The machine right after reset, with the configuration of log entry 3 and erased storage (log entry 10). -/
def State.reset : State := State.boot Config.default []

/-- What an instruction's meaning answers. -/
abbrev Out := Host.Outcome State Fault Refusal

end Sys2Proof.Machine
end

