-- ==== Sys2Proof/Machine/Flags.lean ====
section
/-! DEFINITION. The flag-like state of 10_state.md R29: `active` and `crc_requested`, and the one-active check of R35. -/

namespace Sys2Proof.Machine

/-- `crcq(c)` (R75). -/
def crcq : Qualifier → Bool
  | .plain => false
  | .crc => true

/-- Some device is active (R161). -/
def State.anyActive (s : State) : Bool := s.devices.any (·.active)

/-- The condition that raises ContractViolation (R161, R236). -/
def State.claimed (s : State) : Bool := s.anyActive || s.registry.isSome

/-- The flags of a device a command is dispatched to (R161): `active` set, `crc_requested` from the record. -/
def Device.activated (dev : Device) (crc : Bool) : Device := { dev with active := true, crcRequested := crc }

/-- The registers of a device at the end of its cycle (R162). -/
def Device.finished (dev : Device) : Device := { dev with state := .ready, active := false }

end Sys2Proof.Machine
end

