-- ==== Sys2Proof/Machine/Operands.lean ====
section
/-! DEFINITION. The operand forms of a Command Record: the address match (30_encoding.md R84) and the uses of `param1`
(R76). `param2` is read by no rule. -/

namespace Sys2Proof.Machine

/-- `match(dev, c)` (R84): the device's own address, or the wildcard. -/
def Device.matches (dev : Device) (a : Byte) : Bool := a == dev.address || a == wildcard

/-- `supported` (R190 step 2): only measurement set 0 is supported. -/
def supportedIndex (param1 : BitVec 16) : Bool := param1 == 0

/-- The new address byte of AddressChange (R166, D21): `param1[7:0]`, with `param1[15:8]` zero. -/
def newAddress (param1 : BitVec 16) : Option Byte :=
  if param1.toNat < 256 then some (param1.setWidth 8) else none

/-- The line slot a DataRequest reads (R169): an index at or above LINE_SLOTS reads as the empty string. -/
def slotOperand (lineSlots : Nat) (lines : List Bytes) (param1 : BitVec 16) : Bytes :=
  if param1.toNat < lineSlots then lines.getD param1.toNat [] else []

/-- The value a ContinuousMeasurement sends (R211): none at or above NUM_VALUES. -/
def valueOperand (vals : Values) (param1 : BitVec 16) : Option F64 := vals.toList[param1.toNat]?

end Sys2Proof.Machine
end

