-- ==== Sys2Proof/Machine/Ops.lean ====
section
/-! DEFINITION. The named operations over registers, lines, storage and the collaborators: the replies (30_encoding.md
R79 to R82), dispatch and the end of a cycle (42_commands_basic.md R161, R162), the checkpoint (60_exceptions.md R238),
and cancellation, which stands for taking an exception (R240), beside FINISH, its return (R241). -/

namespace Sys2Proof.Machine

/-! ### Registers, lines, effects -/

/-- Emit one effect (R10). -/
def State.emit (s : State) (e : Effect) : State := { s with trace := s.trace ++ [e] }

/-- Read device `d` (R9 `dev.f`). -/
def State.dev (s : State) (d : Nat) : Device := s.devices.getD d default

/-- Write registers of device `d` (R9 `dev.f <- v`). -/
def State.updateDev (s : State) (d : Nat) (f : Device → Device) : State :=
  { s with devices := s.devices.modify d f }

/-- `state <- S` (R9). -/
def State.setDevState (s : State) (d : Nat) (st : DevState) : State :=
  s.updateDev d (fun dev => { dev with state := st })

/-- `registry <- none` (R162). -/
def State.clearRegistry (s : State) : State := { s with registry := none }

/-- One set write of the Response Line Set (R57). -/
def State.setLines (s : State) (d : Nat) (ls : List Bytes) : State :=
  s.updateDev d (fun dev => { dev with lines := ls })

/-- LINE_SLOTS empty slots. -/
def emptyLines (cfg : Config) : List Bytes := List.replicate cfg.lineSlots []

/-- `CLEAR(dev)` (R190). -/
def State.clearLines (s : State) (d : Nat) : State := s.setLines d (emptyLines s.cfg)

/-! ### Replies -/

/-- The bytes of an ASCII reply (R79, R82). -/
def asciiReply (dev : Device) (payload : Bytes) (withCrc : Bool) : Bytes :=
  let body := dev.address :: payload
  (if withCrc && dev.crcRequested then body ++ (Config.crcAscii body).toList else body) ++ crlf

/-- `Reply(dev, payload, with_crc)` (R79). -/
def State.reply (s : State) (d : Nat) (payload : Bytes) (withCrc : Bool) : State :=
  s.emit (.send (asciiReply (s.dev d) payload withCrc))

/-- The byte-data frame (R81): address, length 0, type tag 0, and the checksum low byte first if requested (R54). -/
def byteFrame (dev : Device) : Bytes :=
  let frame : Bytes := [dev.address, 0x00, 0x00, 0x00]
  if dev.crcRequested then
    frame ++ [(Config.crcRaw frame).extractLsb' 0 8, (Config.crcRaw frame).extractLsb' 8 8]
  else frame

/-- Send the byte-data frame (R171). -/
def State.sendFrame (s : State) (d : Nat) : State := s.emit (.send (byteFrame (s.dev d)))

/-! ### The address mutation -/

/-- `StorageWrite(slot, b)` (R56): the call is an effect, the byte is durable. -/
def State.storageWrite (s : State) (slot : Nat) (b : Byte) : State :=
  ({ s with storage := s.storage.write slot b }).emit (.storageWrite slot b)

/-- `SetAddress(dev, b)` (R167): the state after it and the boolean it returns. -/
def State.setAddress (s : State) (d : Nat) (b : Byte) : State × Bool :=
  if alphanumeric b then
    let s1 := s.updateDev d (fun dev => { dev with address := b })
    match (s.dev d).storageSlot with
    | some slot => (s1.storageWrite slot b, true)
    | none => (s1, true)
  else (s, false)

/-! ### Dispatch and the end of a cycle -/

/-- `FINISH(dev)` (R162): the end of every cycle, and the return from a cancellation (R241). -/
def State.finish (s : State) (d : Nat) : State :=
  (s.updateDev d Device.finished).emit .forceListen

/-- The three writes of dispatch (R161). -/
def State.activate (s : State) (d : Nat) (crc : Bool) : State :=
  { s.updateDev d (fun dev => dev.activated crc) with registry := some d }

/-- Device `d` takes the command (R161, R173): it matches and is in Ready, and no earlier device's Poll holds the
engine (R255). -/
def State.answers (s : State) (a : Byte) (d : Nat) : Bool :=
  match s.devices[d]? with
  | some dev => !s.blocked && dev.matches a && decide (dev.state = .ready)
  | none => false

/-- The loop of R161 over the device numbers: `act` is run for each device that answers, to the end of its cycle,
before the next is tried. -/
def visit (a : Byte) (act : Nat → State → Out) : List Nat → State → Out
  | [], s => .next s
  | d :: ds, s =>
    if s.answers a d then
      match act d s with
      | .next t => visit a act ds t
      | .fault r => .fault r
      | .refused r => .refused r
    else visit a act ds s

/-- What R161 does with one device that answers a record whose verdict is not UNKNOWN. -/
def begin (crc : Bool) (cycle : Nat → State → Out) (d : Nat) (s : State) : Out :=
  if s.claimed then .fault (.contractViolation d) else cycle d (s.activate d crc)

/-- `DISPATCH(c)` (R161) for a record whose verdict is not UNKNOWN. -/
def dispatch (a : Byte) (crc : Bool) (cycle : Nat → State → Out) (s : State) : Out :=
  visit a (begin crc cycle) (List.range s.devices.length) s

/-- A cycle answered at once: the synchronous reply has been sent; clear the registry, end the cycle (R162). -/
def State.closeCycle (s : State) (d : Nat) : State := s.clearRegistry.finish d

/-- `EXEC_UNKNOWN(dev)` (R172): no register is written. -/
def State.reject (s : State) (d : Nat) : State :=
  (s.reply d s.cfg.rejectPayload false).emit .forceListen

/-! ### The acquisition window -/

/-- The `env` record the next acquisition draws: the first one State lists, else a free value (log entry 2). -/
def State.nextEnv (s : State) : Env :=
  match s.envs with
  | e :: _ => e
  | [] => Config.freeEnv s.drawn

/-- Draw it. -/
def State.drawEnv (s : State) : State := { s with envs := s.envs.tail, drawn := s.drawn + 1 }

/-- A `Poll()` that never returns (R255): the engine stays where it is. -/
def State.block (s : State) : State := { s with blocked := true }

/-- The host's deactivation in the acquisition window (R252). -/
def State.hostDeactivate (s : State) (d : Nat) (deact : Bool) : State :=
  if deact then s.updateDev d (fun dev => { dev with active := false }) else s

/-- `Drain()` (R239): the effect, the flush of a framing error inside it (R235), and the records kept in `pending`
when CANCEL_CMD_RETAINED. -/
def State.drain (s : State) (e : Env) : State :=
  let s1 := s.emit .drain
  let s2 := if e.framing then s1.emit .clearBuffer else s1
  if s.cfg.cancelCmdRetained then { s2 with pending := s2.pending ++ e.newcmds } else s2

/-- The two contracts of a measurement cycle (R190). -/
inductive Mode where
  | hold
  | release
  deriving DecidableEq, Repr, Inhabited

/-- `CHECKPOINT(dev, mode)` (R238): the state after it and whether the acquisition is cancelled. -/
def State.checkpoint (s : State) (d : Nat) (mode : Mode) (e : Env) : State × Bool :=
  let s1 := s.drain e
  match mode with
  | .hold => (if e.lb then s1.emit .clearLineBreak else s1, e.lb || !(s1.dev d).active)
  | .release => (s1, e.newcmds.any (fun w => (s1.dev d).matches (Record.address w)))

/-- Cancellation (R240): the polled values are discarded, every slot is cleared, no notice is sent, and the ordinary end
of the cycle runs. -/
def State.cancel (s : State) (d : Nat) : State := (s.clearLines d).finish d

/-- The data phase of a cycle that was not cancelled (R190 steps 10, 11): one set write, in hold mode the completion
notice, FINISH. -/
def State.deliver (s : State) (d : Nat) (mode : Mode) (ls : List Bytes) : State :=
  let s1 := s.setLines d ls
  (if mode = .hold then s1.reply d [] false else s1).finish d

/-- The acquisition of MCYCLE (R190 steps 7 to 11). `produce` is what the lines become, none when they would need a slot
beyond LINE_SLOTS (R146). -/
def acquire (mode : Mode) (produce : Config → Values → Option (List Bytes)) (d : Nat) (s : State) : Out :=
  let e := s.nextEnv
  let s1 := ((s.emit .delay).emit .poll).drawEnv
  match e.vals with
  | none => .next s1.block
  | some vals =>
    let r := (s1.hostDeactivate d e.deact).checkpoint d mode e
    if r.2 then .next (r.1.cancel d)
    else
      match produce r.1.cfg vals with
      | some ls => .next (r.1.deliver d mode ls)
      | none => .refused (.lineSlotsExhausted d)

/-- What tells the three states with an acquisition apart (R216): the state entered, the two tokens, the contract and
what the lines become. -/
structure MClass where
  st : DevState
  tokOk : Bytes
  tokBad : Bytes
  mode : Mode
  produce : Config → Values → Option (List Bytes)

/-- Steps 1 to 4 of MCYCLE (R190): enter the state, send the synchronous reply, clear the registry. -/
def MClass.synchronous (m : MClass) (param1 : BitVec 16) (d : Nat) (s : State) : State :=
  ((s.setDevState d m.st).reply d (if supportedIndex param1 then m.tokOk else m.tokBad) false).clearRegistry

/-- MCYCLE (R190) of a measurement-class verb. -/
def MClass.measure (m : MClass) (param1 : BitVec 16) (d : Nat) (s : State) : Out :=
  let s1 := m.synchronous param1 d s
  if supportedIndex param1 then acquire m.mode m.produce d s1 else .next (s1.cancel d)

/-- MCYCLE (R190, R191) of an identification probe: it leaves at step 5. -/
def MClass.probe (m : MClass) (param1 : BitVec 16) (d : Nat) (s : State) : Out :=
  .next ((m.synchronous param1 d s).finish d)

end Sys2Proof.Machine
end

