-- ==== Sys2Proof/Machine/Basic.lean ====
section
/-! DEFINITION. The commands answered in Ready (42_commands_basic.md): AQRY, ACK, IDENT, ACHG, DATA, BDATA, UNKNOWN. -/

namespace Sys2Proof.Machine

/-- The cycle of a bare-address reply (R163, R164). -/
def addressCycle (d : Nat) (s : State) : Out := .next ((s.reply d [] false).closeCycle d)

/-- AQRY (R163). -/
def execAqry (a : Byte) (s : State) : Out := dispatch a (crcq .plain) addressCycle s

/-- ACK (R164): the semantics of R163. -/
def execAck (a : Byte) (s : State) : Out := dispatch a (crcq .plain) addressCycle s

/-- The cycle of IDENT (R165). -/
def identCycle (d : Nat) (s : State) : Out := .next ((s.reply d s.cfg.identString false).closeCycle d)

/-- IDENT (R165). -/
def execIdent (a : Byte) (s : State) : Out := dispatch a (crcq .plain) identCycle s

/-- The address mutation of ACHG (R166): a `param1` above 255 is refused like a byte that is not alphanumeric. -/
def changeAddress (param1 : BitVec 16) (d : Nat) (s : State) : State :=
  match newAddress param1 with
  | some b => (s.setAddress d b).1
  | none => s

/-- The cycle of ACHG (R166): the reply carries the address as it now is. -/
def addressChangeCycle (param1 : BitVec 16) (d : Nat) (s : State) : Out :=
  .next (((changeAddress param1 d s).reply d [] false).closeCycle d)

/-- ACHG (R166). -/
def execAchg (a : Byte) (param1 : BitVec 16) (s : State) : Out :=
  dispatch a (crcq .plain) (addressChangeCycle param1) s

/-- The cycle of DATA (R169). -/
def dataCycle (param1 : BitVec 16) (d : Nat) (s : State) : Out :=
  .next ((s.reply d (slotOperand s.cfg.lineSlots (s.dev d).lines param1) true).closeCycle d)

/-- DATA (R169). -/
def execData (a : Byte) (q : Qualifier) (param1 : BitVec 16) (s : State) : Out :=
  dispatch a (crcq q) (dataCycle param1) s

/-- The cycle of BDATA (R171). -/
def byteDataCycle (d : Nat) (s : State) : Out := .next ((s.sendFrame d).closeCycle d)

/-- BDATA (R171). -/
def execBdata (a : Byte) (q : Qualifier) (s : State) : Out := dispatch a (crcq q) byteDataCycle s

/-- UNKNOWN (R161, R172): every matching device in Ready sends the rejection reply; the one-active check is not made and
no register is written. -/
def execUnknown (a : Byte) (s : State) : Out :=
  visit a (fun d t => .next (t.reject d)) (List.range s.devices.length) s

end Sys2Proof.Machine
end

