-- ==== Sys2Proof/Machine/F64.lean ====
section
/-! DEFINITION. The binary64 primitives of 00_scope.md R8, exact on natural numbers: a finite binary64 is an integer
multiple of 2^-1074, so the magnitude of `real(v)` is `F64.scaled v / F64.unit`. -/

namespace Sys2Proof.Machine

/-- 2^1074: the inverse of the smallest positive binary64. -/
def F64.unit : Nat := 2 ^ 1074

/-- The biased exponent, bits 62:52. -/
def F64.exponent (v : F64) : Nat := (v.extractLsb' 52 11).toNat

/-- The fraction, bits 51:0. -/
def F64.fraction (v : F64) : Nat := (v.extractLsb' 0 52).toNat

/-- The sign, bit 63. -/
def F64.sign (v : F64) : Bool := v.getLsbD 63

/-- `isNaN(v)` (R8). -/
def F64.isNaN (v : F64) : Bool := F64.exponent v == 2047 && F64.fraction v != 0

/-- `isInf(v)` (R8). -/
def F64.isInf (v : F64) : Bool := F64.exponent v == 2047 && F64.fraction v == 0

/-- `neg(v)` (R8): sign flip, exact. -/
def F64.neg (v : F64) : F64 := v ^^^ 0x8000000000000000

/-- The magnitude of a finite `v` in units of 2^-1074. -/
def F64.scaled (v : F64) : Nat :=
  if F64.exponent v = 0 then F64.fraction v
  else (2 ^ 52 + F64.fraction v) * 2 ^ (F64.exponent v - 1)

/-- `real(v)` (R8) in units of 2^-1074. An infinity is larger than every finite value here too. -/
def F64.toInt (v : F64) : Int := if F64.sign v then -(F64.scaled v : Int) else F64.scaled v

/-- `v < w` (R8): false on NaN, and -0.0 < 0.0 is false. -/
def F64.lt (v w : F64) : Bool := !F64.isNaN v && !F64.isNaN w && decide (F64.toInt v < F64.toInt w)

/-- `v == w` (R8): false on NaN. -/
def F64.eq (v w : F64) : Bool := !F64.isNaN v && !F64.isNaN w && decide (F64.toInt v = F64.toInt w)

/-- `real(v)` (R8): the exact rational value of a finite `v`. -/
def F64.real (v : F64) : ℚ := (F64.toInt v : ℚ) / (F64.unit : ℚ)

/-- `trunc(v)` of a finite `v` (R8): the integer part toward zero. -/
def F64.trunc (v : F64) : Int := (F64.toInt v).tdiv F64.unit

/-- `trunc(mag)` of a magnitude, as a natural number: the absolute value of `F64.trunc` (Laws/F64.lean). -/
def F64.integerPart (v : F64) : Nat := F64.scaled v / F64.unit

/-- `n / 2^s` rounded to the nearest integer, ties to even. -/
def roundHalfEven (n s : Nat) : Nat :=
  let q := n / 2 ^ s
  let r := n % 2 ^ s
  if 2 ^ s < 2 * r ∨ (2 * r = 2 ^ s ∧ q % 2 = 1) then q + 1 else q

/-- The binary64 nearest to `n / 2^k`, ties to even (R8: "rounded once to nearest, ties to even"), as a magnitude. `w`
is the exponent of the result's last place above 2^-1074. -/
def F64.roundMag (n k : Nat) : F64 :=
  if n = 0 then 0
  else
    let w := Nat.log2 n + 1022 - k
    let sig := if k + w ≤ 1074 then n * 2 ^ (1074 - (k + w)) else roundHalfEven n (k + w - 1074)
    BitVec.ofNat 64 (min (w * 2 ^ 52 + sig) (2047 * 2 ^ 52))

/-- A magnitude with a sign. -/
def F64.withSign (negative : Bool) (mag : F64) : F64 := if negative then F64.neg mag else mag

/-- The binary64 nearest to `n / 2^k` for an integer `n` of either sign. -/
def F64.round (n : Int) (k : Nat) : F64 := F64.withSign (decide (n < 0)) (F64.roundMag n.natAbs k)

/-- `toF64(n)` (R8): exact for every `n` whose magnitude is below 2^53. -/
def F64.ofInt (n : Int) : F64 := F64.round n 0

/-- `toF64(n)` of a natural number. -/
def F64.ofNat (n : Nat) : F64 := F64.ofInt n

/-- +inf. -/
def F64.infinity : F64 := 0x7FF0000000000000

/-- A NaN with the free bits `bits` as its sign and payload (log entry 27). -/
def F64.nanOf (bits : F64) : F64 := 0x7FF8000000000000 ||| bits

/-- `fsub(a, b)` (R8): one rounding to nearest, ties to even. An exact zero is +0.0, but -0.0 for (-0.0) - (+0.0). -/
def F64.sub (a b : F64) : F64 :=
  if F64.isNaN a || F64.isNaN b then F64.nanOf (Config.freeSubNaN a b)
  else if F64.isInf a then
    if F64.isInf b && F64.sign a == F64.sign b then F64.nanOf (Config.freeSubNaN a b) else a
  else if F64.isInf b then F64.neg b
  else if F64.toInt a = F64.toInt b then F64.withSign (F64.sign a && !F64.sign b) 0
  else F64.round (F64.toInt a - F64.toInt b) 1074

/-- `fmul(a, b)` (R8): one rounding to nearest, ties to even. The sign is that of the exact product, zeros included; an
infinity times a zero is a NaN. -/
def F64.mul (a b : F64) : F64 :=
  if F64.isNaN a || F64.isNaN b then F64.nanOf (Config.freeMulNaN a b)
  else if F64.isInf a || F64.isInf b then
    if F64.scaled a = 0 ∨ F64.scaled b = 0 then F64.nanOf (Config.freeMulNaN a b)
    else F64.withSign (F64.sign a != F64.sign b) F64.infinity
  else F64.withSign (F64.sign a != F64.sign b) (F64.roundMag (F64.scaled a * F64.scaled b) 2148)

end Sys2Proof.Machine
end

