-- ==== Sys2Proof/Machine/Encoder.lean ====
section
/-! DEFINITION. ENCODE (40_numeric_encoder.md): one binary64 value into a bounded ASCII field, step by step as R101 lists
the steps. -/

namespace Sys2Proof.Machine

/-- `EncodedField` (R100): Ok(text, length), with length = len(text) (R117), or Overflow (R116). -/
inductive Field where
  | ok (text : Bytes)
  | overflow
  deriving DecidableEq, Repr, Inhabited

/-- The `text` port less the terminator, which is also `field(...)` of PACK (R116, R141, R144). -/
def Field.text : Field → Bytes
  | .ok t => t
  | .overflow => nanToken

/-- The `length` port (R116, R117): 0 for Overflow. -/
def Field.length : Field → Nat
  | .ok t => t.length
  | .overflow => 0

/-- The `text` port with its terminating marker (R117). -/
def Field.port (f : Field) : Bytes := f.text ++ [terminator]

/-- The ASCII digit of `d` (R7). -/
def digit (d : Nat) : Byte := BitVec.ofNat 8 (0x30 + d)

/-- The digits of `m` in front of `acc`, most significant first; `fuel` above `m` is enough. -/
def decAcc : Nat → Nat → Bytes → Bytes
  | 0, _, acc => acc
  | fuel + 1, m, acc =>
    if m < 10 then digit m :: acc else decAcc fuel (m / 10) (digit (m % 10) :: acc)

/-- `dec(m)` (R101): the decimal numeral without leading zeros, "0" for 0. -/
def dec (m : Nat) : Bytes := decAcc (m + 1) m []

/-- `decpad(m, k)` (R101): left-padded with '0' to exactly `k` digits. -/
def decpad (m k : Nat) : Bytes := List.replicate (k - (dec m).length) (digit 0) ++ dec m

/-- `ndigits(m)` (R101, R106): 1 for 0. -/
def ndigits (m : Nat) : Nat := (dec m).length

/-- Step 5, the fit step (R106, R107): none is Overflow, else the effective precision. `signed` says a sign character is
emitted; the budget is a signed integer (R120). -/
def fitPrecision (cap n p : Nat) (signed : Bool) : Option Nat :=
  if cap = 0 then some p
  else if cap ≤ n then none
  else
    let budget : Int := (cap : Int) - n - 2 + (if signed then 0 else 1)
    some (if budget < p then (max budget 0).toNat else p)

/-- The rounding of R110 and R112: `k` is the retained integer, `r` the remainder. The tie is tested first (C1). -/
def roundRetained (k : Nat) (r : F64) : Nat :=
  if F64.eq r halfF64 then (if k % 2 = 1 then k + 1 else k)
  else if F64.lt rndThresh r then k + 1
  else k

/-- Step 6, fast path, precision 0 (R112). -/
def fastWhole (mag : F64) : Nat :=
  let whole := F64.integerPart mag
  roundRetained whole (F64.sub mag (F64.ofNat whole))

/-- The scaled fraction `t` of R109: one exact subtraction and one rounded multiplication. -/
def scaledFraction (mag : F64) (p : Nat) : F64 :=
  F64.mul (F64.sub mag (F64.ofNat (F64.integerPart mag))) (F64.ofNat (10 ^ p))

/-- The fraction after the rounding of R110, before the carry test. -/
def roundedFraction (mag : F64) (p : Nat) : Nat :=
  let t := scaledFraction mag p
  roundRetained (F64.integerPart t) (F64.sub t (F64.ofNat (F64.integerPart t)))

/-- Step 6, fast path, precision above 0 (R109 to R111): (whole, frac). -/
def fastDigits (mag : F64) (p : Nat) : Nat × Nat :=
  let frac := roundedFraction mag p
  if 10 ^ p ≤ frac then (F64.integerPart mag + 1, 0) else (F64.integerPart mag, frac)

/-- `FIXED(mag, p)` (R113): the exact value rounded to `p` fractional digits, ties to even. -/
def fixedDigits (mag : F64) (p : Nat) : Nat × Nat :=
  let q := roundHalfEven (F64.scaled mag * 10 ^ p) 1074
  (q / 10 ^ p, q % 10 ^ p)

/-- Step 6 (R108): the path and its digits. -/
def digitsOf (mag : F64) (p : Nat) : Nat × Nat :=
  if F64.lt bigThresh mag then fixedDigits mag p
  else if p = 0 then (fastWhole mag, 0)
  else fastDigits mag p

/-- Step 7 (R114): strip trailing zeros of a `count`-digit fraction; the fraction and the count left. -/
def strip : Nat → Nat → Nat × Nat
  | 0, frac => (frac, 0)
  | count + 1, frac => if frac % 10 = 0 then strip count (frac / 10) else (frac, count + 1)

/-- The fraction and the number of its digits that are shown (step 7). -/
def shownFraction (p frac : Nat) (ktz : Bool) : Nat × Nat := if ktz then (frac, p) else strip p frac

/-- The sign character (R104, R115). -/
def signChars (neg plus : Bool) : Bytes := if neg then [minusSign] else if plus then [plusSign] else []

/-- Step 8 (R115): sign, integral numeral, and the point and fraction if any digit is shown. -/
def assemble (neg plus : Bool) (whole frac count : Nat) : Bytes :=
  signChars neg plus ++ dec whole ++ (if 0 < count then point :: decpad frac count else [])

/-- ENCODE(v, P, L, ktz, plus) (R101). -/
def encodeValue (v : F64) (precision fieldCap : BitVec 8) (ktz plus : Bool) : Field :=
  if F64.isNaN v then .overflow
  else if F64.isInf v then .overflow
  else
    let neg := F64.lt v 0
    let mag := if neg then F64.neg v else v
    match fitPrecision fieldCap.toNat (ndigits (F64.integerPart mag)) (min precision.toNat maxPrecision) (neg || plus) with
    | none => .overflow
    | some p =>
      let wf := digitsOf mag p
      let fc := shownFraction p wf.2 ktz
      .ok (assemble neg plus wf.1 fc.1 fc.2)

/-! ### The digit-generation order of R119 -/

/-- `repeat count times: push the last digit, divide by 10`. -/
def pushFraction : Nat → Nat → Bytes
  | 0, _ => []
  | count + 1, frac => digit (frac % 10) :: pushFraction count (frac / 10)

/-- `repeat: push the last digit, divide by 10, until 0`; `fuel` above the value is enough. -/
def pushWhole : Nat → Nat → Bytes
  | 0, _ => []
  | fuel + 1, whole => digit (whole % 10) :: (if whole / 10 = 0 then [] else pushWhole fuel (whole / 10))

/-- The scratch buffer of R119, reversed, without the terminator. -/
def bufferText (neg plus : Bool) (whole frac count : Nat) : Bytes :=
  (pushFraction count frac ++ (if 0 < count then [point] else []) ++ pushWhole (whole + 1) whole ++
    signChars neg plus).reverse

end Sys2Proof.Machine
end

