-- ==== Sys2Proof/Machine/Formatter.lean ====
section
/-! DEFINITION. PACK (41_response_formatter.md): first-fit packing of encoded fields into LINE_SLOTS lines. -/

namespace Sys2Proof.Machine

/-- The field of one value (R141, R142, R144). -/
def packField (precision fieldCap : BitVec 8) (v : F64) : Bytes :=
  (encodeValue v precision fieldCap packKtz packPlus).text

/-- `fits(a, b, cap)` (R141, R143). -/
def fits (strict : Bool) (a b cap : Nat) : Bool := if strict then decide (a + b < cap) else decide (a + b ≤ cap)

/-- The lines from the current one on (R141): a field that does not fit closes the current line for good (R143). -/
def fillLines (strict : Bool) (cap : Nat) : List Bytes → Bytes → List Bytes
  | [], cur => [cur]
  | f :: fs, cur =>
    if fits strict cur.length f.length cap then fillLines strict cap fs (cur ++ f)
    else cur :: fillLines strict cap fs f

/-- The used lines of a list of values, slot 0 first. -/
def usedLines (strict : Bool) (vals : List F64) (precision fieldCap : BitVec 8) (lineCap : Nat) : List Bytes :=
  fillLines strict lineCap (vals.map (packField precision fieldCap)) []

/-- PACK(vals, p, fcap, lcap) (R140, R141, R145): exactly `slots` lines, or none when a line beyond the last slot would be
needed (R146). -/
def pack (slots : Nat) (strict : Bool) (vals : List F64) (precision fieldCap : BitVec 8) (lineCap : Nat) :
    Option (List Bytes) :=
  let used := usedLines strict vals precision fieldCap lineCap
  if used.length ≤ slots then some (used ++ List.replicate (slots - used.length) []) else none

/-- The FSM's invocation of PACK (R148). -/
def packAt (lineCap : Nat) (cfg : Config) (vals : Values) : Option (List Bytes) :=
  pack cfg.lineSlots cfg.packStrict vals.toList packPrecision cfg.fieldCap lineCap

end Sys2Proof.Machine
end

