-- ==== Sys2Proof/Machine/Measurement.lean ====
section
/-! DEFINITION. The measurement-class commands and the identification probes (43_commands_measurement.md). -/

namespace Sys2Proof.Machine

/-- The Measurement state (R192, R216). -/
def measurementClass : MClass where
  st := .measurement
  tokOk := tokMeasurement
  tokBad := tokZero4
  mode := .hold
  produce := packAt shortCap

/-- The Concurrent state (R200, R216). -/
def concurrentClass : MClass where
  st := .concurrent
  tokOk := tokConcurrent
  tokBad := tokZero5
  mode := .release
  produce := packAt longCap

/-- The HighVolumeMeasurement state, ASCII branch (R207, R216). -/
def highVolumeAsciiClass : MClass where
  st := .highVolumeMeasurement
  tokOk := tokHighVolume
  tokBad := tokZero6
  mode := .release
  produce := packAt longCap

/-- The HighVolumeMeasurement state, byte branch: the placeholder produces nothing (R209, U2). -/
def highVolumeByteClass : MClass where
  st := .highVolumeMeasurement
  tokOk := tokHighVolume
  tokBad := tokZero6
  mode := .release
  produce := fun cfg _ => some (emptyLines cfg)

/-- MEAS (R192). -/
def execMeas (a : Byte) (q : Qualifier) (param1 : BitVec 16) (s : State) : Out :=
  dispatch a (crcq q) (measurementClass.measure param1) s

/-- CONC (R200). -/
def execConc (a : Byte) (q : Qualifier) (param1 : BitVec 16) (s : State) : Out :=
  dispatch a (crcq q) (concurrentClass.measure param1) s

/-- HVA (R207). -/
def execHva (a : Byte) (q : Qualifier) (param1 : BitVec 16) (s : State) : Out :=
  dispatch a (crcq q) (highVolumeAsciiClass.measure param1) s

/-- HVB (R209). -/
def execHvb (a : Byte) (q : Qualifier) (param1 : BitVec 16) (s : State) : Out :=
  dispatch a (crcq q) (highVolumeByteClass.measure param1) s

/-- IDENT.M (R195). -/
def execIdentM (a : Byte) (param1 : BitVec 16) (s : State) : Out :=
  dispatch a (crcq .plain) (measurementClass.probe param1) s

/-- IDENT.C (R203). -/
def execIdentC (a : Byte) (param1 : BitVec 16) (s : State) : Out :=
  dispatch a (crcq .plain) (concurrentClass.probe param1) s

/-- IDENT.HA (R208). -/
def execIdentHA (a : Byte) (param1 : BitVec 16) (s : State) : Out :=
  dispatch a (crcq .plain) (highVolumeAsciiClass.probe param1) s

/-- IDENT.HB (R210). -/
def execIdentHB (a : Byte) (param1 : BitVec 16) (s : State) : Out :=
  dispatch a (crcq .plain) (highVolumeByteClass.probe param1) s

/-- The payload of a Continuous reply (R211): one value encoded as PACK encodes it, empty at or above NUM_VALUES. -/
def continuousPayload (cfg : Config) (vals : Values) (param1 : BitVec 16) : Bytes :=
  match valueOperand vals param1 with
  | some v => packField packPrecision cfg.fieldCap v
  | none => []

/-- The cycle of CONT (R211): one Poll, no delay, no checkpoint; a Poll that never returns holds the engine (R255). -/
def continuousCycle (param1 : BitVec 16) (d : Nat) (s : State) : Out :=
  let e := s.nextEnv
  let s1 := ((s.setDevState d .continuous).emit .poll).drawEnv
  match e.vals with
  | none => .next s1.block
  | some vals => .next ((s1.reply d (continuousPayload s1.cfg vals param1) true).closeCycle d)

/-- CONT (R211). -/
def execCont (a : Byte) (q : Qualifier) (param1 : BitVec 16) (s : State) : Out :=
  dispatch a (crcq q) (continuousCycle param1) s

/-- The cycle of IDENT.R (R213): no Poll. -/
def continuousProbeCycle (d : Nat) (s : State) : Out :=
  .next (((s.setDevState d .continuous).reply d s.cfg.contProbeToken false).closeCycle d)

/-- IDENT.R (R213). -/
def execIdentR (a : Byte) (s : State) : Out := dispatch a (crcq .plain) continuousProbeCycle s

/-- The synchronous reply of Verify (R214): always "0000". -/
def verifyReply (d : Nat) (s : State) : State :=
  ((s.setDevState d .verify).reply d tokZero4 false).clearRegistry

/-- The cycle of VERIFY (R214): it clears all response lines. -/
def verifyCycle (d : Nat) (s : State) : Out := .next (((verifyReply d s).clearLines d).finish d)

/-- VERIFY (R214). -/
def execVerify (a : Byte) (q : Qualifier) (s : State) : Out := dispatch a (crcq q) verifyCycle s

/-- The cycle of IDENT.V (R215): as VERIFY without the clear. -/
def verifyProbeCycle (d : Nat) (s : State) : Out := .next ((verifyReply d s).finish d)

/-- IDENT.V (R215). -/
def execIdentV (a : Byte) (s : State) : Out := dispatch a (crcq .plain) verifyProbeCycle s

end Sys2Proof.Machine
end

