-- ==== Sys2Proof/Machine/Dispatch.lean ====
section
/-! DEFINITION. One arm per constructor of Instr. -/

namespace Sys2Proof.Machine

def exec (i : Instr) (s : State) : Host.Outcome State Fault Refusal :=
  match i with
  | .aqry a _ _ => Sys2Proof.Machine.execAqry a s
  | .ack a _ _ => Sys2Proof.Machine.execAck a s
  | .ident a _ _ => Sys2Proof.Machine.execIdent a s
  | .identM a p _ => Sys2Proof.Machine.execIdentM a p s
  | .identC a p _ => Sys2Proof.Machine.execIdentC a p s
  | .identR a _ _ => Sys2Proof.Machine.execIdentR a s
  | .identHA a p _ => Sys2Proof.Machine.execIdentHA a p s
  | .identHB a p _ => Sys2Proof.Machine.execIdentHB a p s
  | .identV a _ _ => Sys2Proof.Machine.execIdentV a s
  | .achg a p _ => Sys2Proof.Machine.execAchg a p s
  | .meas a q p _ => Sys2Proof.Machine.execMeas a q p s
  | .conc a q p _ => Sys2Proof.Machine.execConc a q p s
  | .hva a q p _ => Sys2Proof.Machine.execHva a q p s
  | .hvb a q p _ => Sys2Proof.Machine.execHvb a q p s
  | .cont a q p _ => Sys2Proof.Machine.execCont a q p s
  | .data a q p _ => Sys2Proof.Machine.execData a q p s
  | .bdata a q _ _ => Sys2Proof.Machine.execBdata a q s
  | .verify a q _ _ => Sys2Proof.Machine.execVerify a q s
  | .unknown a _ _ _ _ => Sys2Proof.Machine.execUnknown a s

end Sys2Proof.Machine
end

