-- ==== Sys2Proof/Machine/Front.lean ====
section
/-! DEFINITION. The front end: which Command Record the engine takes next, and what reaches it between cycles
(20_memory.md R58, 60_exceptions.md R235, R239, R252, 70_reset_and_hazards.md R274). -/

namespace Sys2Proof.Machine

/-- The next Command Record and the state without it: a retained one first, else the oldest input if it is a record. A
blocked engine takes none (R255). -/
def fetch (s : State) : Option (Record × State) :=
  if s.blocked then none
  else
    match s.pending with
    | w :: rest => some (w, { s with pending := rest })
    | [] =>
      match s.inputs with
      | .record w :: rest => some (w, { s with inputs := rest })
      | _ => none

/-- A host step or a front-end event between cycles (R252, R83, R235). The model's own choices, log entry 12: a step that
names a device beyond the last one changes nothing; a forbidden write of the registry is stored as it is, also a number at
or above NDEV, which R26 does not give the registry. -/
def hostStep (i : Input) (s : State) : State :=
  match i with
  | .record _ => s
  | .malformed => s
  | .framingError => s.emit .clearBuffer
  | .setAddress d b =>
    if d < s.devices.length then
      let r := s.setAddress d b
      { r.1 with hostResult := some r.2 }
    else s
  | .setLowPower d => s.setDevState d .lowPower
  | .setReady d => s.setDevState d .ready
  | .forceActive d v => s.updateDev d (fun dev => { dev with active := v })
  | .forceRegistry r => { s with registry := r }

/-- What a step does when there is no record to dispatch: a blocked engine stays where it is (R255), the oldest other
input is taken, and with nothing to do the loop goes on polling (R274: the core never halts). -/
def betweenCycles (s : State) : State :=
  if s.blocked then s
  else
    match s.inputs with
    | i :: rest => hostStep i { s with inputs := rest }
    | [] => s

/-- The `env` a placed record comes with (R274: "each with the `env` its cycle draws"): the source returns nine NaNs
(R102: no arithmetic follows), no line break, no deactivation, nothing drained. Log entry 11. -/
def quietEnv : Env where
  vals := some (Vector.replicate numValues 0x7FF8000000000000)
  lb := false
  deact := false
  newcmds := []
  framing := false

/-- Deliver a record, with the `env` its cycle draws, where the engine takes its next one. -/
def placeRecord (s : State) (w : Record) : State :=
  let s1 := { s with blocked := false, envs := quietEnv :: s.envs }
  match s.pending with
  | [] => { s1 with inputs := .record w :: s.inputs }
  | _ :: _ => { s1 with pending := w :: s.pending }

end Sys2Proof.Machine
end

