-- ==== Sys2Proof/Machine/Step.lean ====
section
/-! DEFINITION. One step of the engine: the whole cycle of one Command Record (10_state.md R28: "A model may make the cycle
one big step"), or one host step or front-end event between cycles (70_reset_and_hazards.md R274). -/

namespace Sys2Proof.Machine

/-- One step. -/
def step (s : State) : Host.Outcome State Fault Refusal :=
  match fetch s with
  | some (w, t) => exec (decode w) t
  | none => .next (betweenCycles s)

/-- The state with the record of the table's bits `w` delivered next (log entry 11). -/
def State.withFetchWord (s : State) (_nbits w : Nat) : State := placeRecord s (BitVec.ofNat 48 w)

end Sys2Proof.Machine
end

