-- ==== Sys2Proof/Machine/Run.lean ====
section
/-! DEFINITION. A run and its end (70_reset_and_hazards.md R274). The core never halts: a run is over when there is nothing
left to dispatch, and the engine then idles. -/

namespace Sys2Proof.Machine

/-- A run's first state (R274): reset under a configuration and the contents of persistent storage, then the Command
Records with the host steps between them, and the `env` their cycles draw. -/
def State.start (cfg : Config) (storage : Memory) (inputs : List Input) (envs : List Env) : State :=
  { State.boot cfg storage with inputs := inputs, envs := envs }

/-- `n` steps; a fault or a refusal ends them without a state. -/
def runSteps : Nat → State → Out
  | 0, s => .next s
  | n + 1, s =>
    match step s with
    | .next t => runSteps n t
    | .fault r => .fault r
    | .refused r => .refused r

/-- The run is over (R274): every listed record and every record a cycle put in `pending` has been dispatched and its cycle
has ended. A cycle whose Poll never returns has not (R255). Log entry 28. -/
def State.over (s : State) : Bool := !s.blocked && s.pending.isEmpty && s.inputs.isEmpty

/-- The run from `s` is over in the state `t`. A run that raised ContractViolation never is (R236). -/
def RunEnds (s t : State) : Prop := ∃ n, runSteps n s = .next t ∧ t.over = true

/-- The observation of a run (R274, R10): the effect trace and the final state. -/
def State.observation (t : State) : List Effect × State := (t.trace, t)

end Sys2Proof.Machine
end

