-- ==== Sys2Proof/Safety.lean ====
section
/-! DEFINITION. What counts as a safe run, in the terms the statements use: the well-formedness of the state
(10_state.md R35), the quiescent point between cycles (10_state.md R24), which device takes a command, and
what a command answered at once leaves when every device that takes it answers in turn (42_commands_basic.md R161). -/

namespace Sys2Proof.Machine

/-! ### Well-formed and quiescent states -/

/-- A device of `n` line slots keeps R35 (i) and R27: an alphanumeric address and exactly `n` slots. -/
def Device.wf (n : Nat) (dev : Device) : Prop := alphanumeric dev.address = true ∧ dev.lines.length = n

/-- Every device is well formed, the devices and their storage slots are those of the configuration (R20, R22), storage
is in canonical form and the registry names a device (R26). -/
structure State.Wf (s : State) : Prop where
  devices : ∀ dev ∈ s.devices, dev.wf s.cfg.lineSlots
  slots : s.devices.map (·.storageSlot) = s.cfg.devices.map (·.slot)
  storage : s.storage.wf = true
  registry : ∀ d, s.registry = some d → d < s.devices.length

/-- R35 (ii): at most one device is active. -/
def State.OneActive (s : State) : Prop :=
  ∀ (d k : Nat) (v w : Device), s.devices[d]? = some v → s.devices[k]? = some w →
    v.active = true → w.active = true → d = k

/-- Between cycles (R24): the device is inactive and in Ready, or in LowPower if the host put it there. -/
def Device.idle (dev : Device) : Prop := dev.active = false ∧ (dev.state = .ready ∨ dev.state = .lowPower)

/-- Between cycles: no cycle runs. What R274 says of the devices and the registry at the end of a run; the end itself is
`State.over`, which asks besides that nothing is left to dispatch. -/
structure State.Quiescent (s : State) : Prop where
  running : s.blocked = false
  registry : s.registry = none
  devices : ∀ dev ∈ s.devices, dev.idle

/-- A `Poll()` that never returns holds the engine in the cycle of device `d` (R255): that device alone is active, in a
measurement state. -/
structure State.HeldBy (s : State) (d : Nat) : Prop where
  blocked : s.blocked = true
  here : ∃ dev, s.devices[d]? = some dev ∧ dev.active = true ∧ dev.state ≠ .ready ∧ dev.state ≠ .lowPower
  others : ∀ k dev, k ≠ d → s.devices[k]? = some dev → dev.idle
  registry : s.registry = none ∨ s.registry = some d

/-- The state of the engine between two steps: quiescent, or held by one device. -/
def State.Settled (s : State) : Prop := s.Quiescent ∨ ∃ d, s.HeldBy d

/-- A host write that R252 forbids. -/
def Input.forbidden : Input → Bool
  | .forceActive _ _ | .forceRegistry _ => true
  | .record _ | .malformed | .framingError | .setAddress _ _ | .setLowPower _ | .setReady _ => false

/-- The host keeps to R252: no forbidden write waits. -/
def State.Lawful (s : State) : Prop := ∀ i ∈ s.inputs, i.forbidden = false

/-- Every line of every device is shorter than `cap` (R52). -/
def State.LinesBelow (s : State) (cap : Nat) : Prop := ∀ dev ∈ s.devices, ∀ l ∈ dev.lines, l.length < cap

/-! ### Who takes a command -/

/-- The device matches and is in Ready (R84, R173). -/
def Device.takes (dev : Device) (a : Byte) : Bool := dev.matches a && decide (dev.state = .ready)

/-- No device is active and the registry is clear, and no Poll holds the engine: the next match is no contract violation
(R161). -/
structure State.Open (s : State) : Prop where
  running : s.blocked = false
  unclaimed : s.claimed = false

/-- Device `d`, with registers `dev`, is the only one that takes a command addressed to `a`, and nothing is claimed. -/
structure Served (s : State) (a : Byte) (d : Nat) (dev : Device) : Prop where
  opened : s.Open
  here : s.devices[d]? = some dev
  takes : dev.takes a = true
  alone : ∀ k other, k ≠ d → s.devices[k]? = some other → other.takes a = false

/-! ### Commands answered at once -/

/-- The state after every device that takes a command addressed to `a` has answered in index order: its registers become
`f dev`, its effects are `eff dev`. -/
def State.answered (s : State) (a : Byte) (f : Device → Device) (eff : Device → List Effect) : State :=
  { s with
    devices := s.devices.map (fun dev => if dev.takes a then f dev else dev)
    trace := s.trace ++ s.devices.flatMap (fun dev => if dev.takes a then eff dev else []) }

/-- The registers of a device after a cycle that changed no line and no address (R161, R162). -/
def Device.cycled (dev : Device) (crc : Bool) : Device :=
  { dev with active := false, state := .ready, crcRequested := crc }

/-- The effects of one plain reply: address, payload, CR LF, then ForceListen (R79, R162). -/
def plainReply (dev : Device) (payload : Bytes) : List Effect :=
  [.send (dev.address :: (payload ++ crlf)), .forceListen]

/-- The effects of one data reply, with the checksum over address and payload if the record asks for it (R79, R82). -/
def dataReply (dev : Device) (payload : Bytes) (q : Qualifier) : List Effect :=
  match q with
  | .plain => plainReply dev payload
  | .crc =>
    [.send (dev.address :: (payload ++ (Config.crcAscii (dev.address :: payload)).toList ++ crlf)), .forceListen]

/-- The new address an AddressChange carries, if it is accepted (R166, R167, R234): `param1` at most 255 and the byte
alphanumeric. -/
def acceptedAddress (param1 : BitVec 16) : Option Byte :=
  if param1.toNat < 256 ∧ alphanumeric (BitVec.ofNat 8 param1.toNat) = true then some (BitVec.ofNat 8 param1.toNat)
  else none

/-- The StorageWrite of a successful address mutation, when a storage slot is present (R167). -/
def mirrorEffects (dev : Device) (b : Byte) : List Effect :=
  match dev.storageSlot with
  | some k => [.storageWrite k b]
  | none => []

/-- Storage after a successful address mutation (R167). -/
def mirrored (dev : Device) (b : Byte) (m : Memory) : Memory :=
  match dev.storageSlot with
  | some k => m.write k b
  | none => m

/-! ### The acquisition -/

/-- The effects of `Drain()` under an `env` (R235, R239). -/
def drainEffects (e : Env) : List Effect := .drain :: (if e.framing then [.clearBuffer] else [])

/-- The effects of an acquisition (R190): the synchronous reply, the delay, the poll, the drain, and what follows. -/
def acquisitionEffects (dev : Device) (token : Bytes) (e : Env) (rest : List Effect) : List Effect :=
  .send (dev.address :: (token ++ crlf)) :: .delay :: .poll :: (drainEffects e ++ rest)

/-- The registers of a device after a cycle that cleared its `n` slots (R190 `CLEAR`). -/
def Device.cleared (dev : Device) (n : Nat) (crc : Bool) : Device :=
  { dev.cycled crc with lines := List.replicate n [] }

/-- `pending` after `Drain()` (R239). -/
def pendingAfter (s : State) (e : Env) : List Record :=
  if s.cfg.cancelCmdRetained then s.pending ++ e.newcmds else s.pending

/-- The state after a served command: device `d` is `dev'`, the effects `effs` were emitted; `env` records drawn and
`pending` as given. -/
def State.afterCycle (s : State) (d : Nat) (dev' : Device) (effs : List Effect) : State :=
  { s with devices := s.devices.set d dev', registry := none, trace := s.trace ++ effs }

/-- The same after an acquisition that drew one `env` and drained it. -/
def State.afterAcquisition (s : State) (d : Nat) (dev' : Device) (effs : List Effect) : State :=
  { (s.afterCycle d dev' effs) with
    pending := pendingAfter s s.nextEnv, envs := s.envs.tail, drawn := s.drawn + 1 }

/-! ### Reading a numeral -/

/-- The value of a string of ASCII digits, most significant first. -/
def numeral (digits : Bytes) : Nat := digits.foldl (fun acc b => 10 * acc + (b.toNat - 0x30)) 0

/-! ### Reading a field back (40_numeric_encoder.md R122 `decode`) -/

/-- An ASCII digit. -/
def isDigit (b : Byte) : Bool := decide (0x30 ≤ b.toNat) && decide (b.toNat ≤ 0x39)

/-- The value a text stands for: an optional sign, at least one digit, and optionally a point and at least one digit. Any
other text has none. -/
def readField (text : Bytes) : Option ℚ :=
  let negative := text.head? == some 0x2D
  let body := if negative || text.head? == some 0x2B then text.drop 1 else text
  let whole := body.takeWhile (· != 0x2E)
  let rest := body.dropWhile (· != 0x2E)
  let frac := rest.drop 1
  if whole ≠ [] ∧ (rest = [] ∨ frac ≠ []) ∧ (whole ++ frac).all isDigit = true then
    let mag : ℚ := numeral (whole ++ frac) / 10 ^ frac.length
    some (if negative then -mag else mag)
  else none

/-- The magnitude ENCODE works on (R101 step 3). -/
def magnitude (v : F64) : F64 := if F64.lt v 0 then F64.neg v else v

/-- The effective precision of ENCODE (R101 steps 4 and 5); none is Overflow. -/
def effectivePrecision (v : F64) (precision fieldCap : BitVec 8) (plus : Bool) : Option Nat :=
  fitPrecision fieldCap.toNat (ndigits (F64.integerPart (magnitude v))) (min precision.toNat maxPrecision)
    (F64.lt v 0 || plus)

end Sys2Proof.Machine
end

