-- ==== Sys2Proof/Certificates/Slice0/Obligations.lean ====
section
/-! DEFINITION. The statements for the provers. A result statement gives the whole next state as one record, so it states
its frame too: a field that the record does not name is the field of the state before. -/

open Sys2Proof Sys2Proof.Machine

/-! ### Encoding -/

/-- Decoding the encoding of a well-formed record gives it back, every operand at every value (R71 to R73, R83). -/
def Obligations.DecodeOfEncodeIsIdentity : Prop :=
  ∀ i : Instr, WellFormed i = true → decode (encode i) = i

/-- Every 48-bit word is the encoding of its verdict, which is well formed (R71, R83): no bit of a word is dropped. -/
def Obligations.EncodeOfDecodeIsIdentity : Prop :=
  ∀ w : Record, WellFormed (decode w) = true ∧ encode (decode w) = w

/-- The fields stand at the bits of R71. -/
def Obligations.WordLayoutHoldsEveryField : Prop :=
  ∀ i : Instr, (encode i).toNat =
    i.address.toNat * 2 ^ 40 + i.primaryCode.toNat * 2 ^ 36 + i.secondaryCode.toNat * 2 ^ 32 +
      i.param1.toNat * 2 ^ 16 + i.param2.toNat

/-- The decoder's verdict is the one R87's decoding order reads from the opcode table. -/
def Obligations.DecoderFollowsOpcodeTable : Prop :=
  ∀ w : Record, (decode w).mnemonic = tableVerdict w

/-- A word is UNKNOWN exactly when R73 does not admit its pair (`primary`, `secondary`) (R83). -/
def Obligations.UnadmittedPairIsUnknown : Prop :=
  ∀ (a : Byte) (pr se : BitVec 4) (p1 p2 : BitVec 16),
    decode (encodeFields a pr se p1 p2) = .unknown a pr se p1 p2 ↔ admitted pr se = false

/-- Words of 95_test_vectors.md part 2.3 decode to the commands they stand for. -/
def Obligations.VectorWordsDecode : Prop :=
  decode 0x3F0000000000 = .aqry 0x3F 0 0 ∧ decode 0x301000000000 = .ack 0x30 0 0 ∧
  decode 0x302100010000 = .identM 0x30 1 0 ∧ decode 0x303000350000 = .achg 0x30 0x35 0 ∧
  decode 0x304700000000 = .meas 0x30 .crc 0 0 ∧ decode 0x308700060000 = .cont 0x30 .crc 6 0 ∧
  decode 0x3090000A0000 = .data 0x30 .plain 10 0 ∧ decode 0x30D000000000 = .unknown 0x30 13 0 0 0 ∧
  decode 0x301700000000 = .unknown 0x30 1 7 0 0

/-! ### Reset -/

/-- What RESET leaves of every device and of the process-wide state, whatever the configuration and the contents of
persistent storage (R34, R260). -/
def Obligations.ResetLeavesEveryRegister : Prop :=
  ∀ (cfg : Config) (storage : Memory),
    (State.boot cfg storage).devices.length = cfg.devices.length ∧
    (∀ (d : Nat) (c : DeviceConfig), cfg.devices[d]? = some c →
      ∃ dev, (State.boot cfg storage).devices[d]? = some dev ∧
        dev.storageSlot = c.slot ∧ dev.active = false ∧ dev.state = .ready ∧ dev.crcRequested = false ∧
        dev.lines = List.replicate cfg.lineSlots [] ∧
        (∀ k, c.slot = some k → alphanumeric (storage.read k) = true → dev.address = storage.read k) ∧
        ((∀ k, c.slot = some k → alphanumeric (storage.read k) = false) →
          dev.address = if alphanumeric c.initialAddress then c.initialAddress else 0x30)) ∧
    (State.boot cfg storage).registry = none ∧ (State.boot cfg storage).pending = [] ∧
    (State.boot cfg storage).storage = storage ∧ (State.boot cfg storage).trace = [.forceListen]

/-- The state after reset meets every invariant stated below, under every configuration and every canonical storage; so
does State.reset, whose configuration and storage are the model's choice (log entries 3 and 10). -/
def Obligations.ResetMeetsTheInvariants : Prop :=
  (∀ (cfg : Config) (storage : Memory), storage.wf = true →
    (State.boot cfg storage).Wf ∧ (State.boot cfg storage).Quiescent ∧ (State.boot cfg storage).OneActive ∧
      (State.boot cfg storage).Lawful ∧ (State.boot cfg storage).LinesBelow 75) ∧
  State.reset.Wf ∧ State.reset.Quiescent ∧ State.reset.OneActive ∧ State.reset.Lawful ∧ State.reset.LinesBelow 75

/-! ### Invariants of every step -/

/-- R35 (i), R27, R22, R26: every step keeps the addresses alphanumeric, LINE_SLOTS slots in every device, every storage
slot as configured, storage in canonical form and the registry naming a device, while the host keeps to R252. -/
def Obligations.StepKeepsStateWellFormed : Prop :=
  ∀ s t : State, s.Wf → s.Lawful → step s = .next t → t.Wf ∧ t.Lawful

/-- R24, R162, R255: between steps every device is inactive and in Ready (or in LowPower) and the registry is clear, or one
device alone is held by a Poll that never returns (how that is held is the model's choice, log entry 7). R274: so a run whose
host keeps to R252, once it is over, has every device in Ready or LowPower and inactive, the registry none and `pending`
empty, and it has one final state only. That a run is over when no input waits is log entry 28. -/
def Obligations.StepKeepsTheQuiescentPoint : Prop :=
  (∀ s t : State, s.Settled → s.Lawful → step s = .next t → t.Settled) ∧
  (∀ (cfg : Config) (storage : Memory) (inputs : List Input) (envs : List Env) (t : State),
    (∀ i ∈ inputs, i.forbidden = false) → RunEnds (State.start cfg storage inputs envs) t →
    t.Quiescent ∧ t.pending = []) ∧
  (∀ s t t' : State, RunEnds s t → RunEnds s t' → t.observation = t'.observation)

/-- R35 (ii), R23: from any state with at most one active device, every step leaves at most one. -/
def Obligations.StepKeepsAtMostOneActive : Prop :=
  ∀ s t : State, s.OneActive → s.Lawful → step s = .next t → t.OneActive

/-- R52: with PACK_STRICT and a field cap whose widest field fits a short line, no step puts a line of LONG_CAP or more
bytes into a slot. -/
def Obligations.StepKeepsLinesBelowLongCap : Prop :=
  ∀ s t : State, s.cfg.packStrict = true → 0 < s.cfg.fieldCap.toNat → s.cfg.fieldCap.toNat + 1 < 35 →
    s.LinesBelow 75 → step s = .next t → t.LinesBelow 75

/-- R236: ContractViolation "cannot be reached by bus traffic alone". -/
def Obligations.LawfulTrafficNeverViolatesTheContract : Prop :=
  ∀ s : State, s.Settled → s.Lawful →
    (∀ d, step s ≠ .fault (.contractViolation d)) ∧ ∀ i d, exec i s ≠ .fault (.contractViolation d)

/-! ### Steps -/

/-- A step runs the decoded instruction: a retained record first, else the oldest input if it is a record (R58, R239). -/
def Obligations.StepRunsTheDecodedRecord : Prop :=
  (∀ (s : State) (w : Record) (rest : List Record), s.blocked = false → s.pending = w :: rest →
    step s = exec (decode w) { s with pending := rest }) ∧
  (∀ (s : State) (w : Record) (rest : List Input), s.blocked = false → s.pending = [] → s.inputs = .record w :: rest →
    step s = exec (decode w) { s with inputs := rest })

/-- What a step does when there is no record to dispatch. R83: malformed text is ignored; R235: a framing error flushes the
buffer; R252, R167: the host's steps have their effect. The model's choices: that a blocked engine steps to itself (log entry
7; R255 leaves open whether the run is stuck or infinite), that an idle step answers the same state (log entry 19), that
these reach the engine as inputs, that a step naming a device beyond the last one changes nothing, and that a forbidden write
is stored as it is (log entry 12). -/
def Obligations.StepBetweenCommands : Prop :=
  (∀ s : State, s.blocked = true → step s = .next s) ∧
  (∀ s : State, s.blocked = false → s.pending = [] →
    (s.inputs = [] → step s = .next s) ∧
    ∀ rest,
      (s.inputs = .malformed :: rest → step s = .next { s with inputs := rest }) ∧
      (s.inputs = .framingError :: rest →
        step s = .next { s with inputs := rest, trace := s.trace ++ [.clearBuffer] }) ∧
      (∀ r, s.inputs = .forceRegistry r :: rest → step s = .next { s with inputs := rest, registry := r }) ∧
      (∀ d dev, s.devices[d]? = some dev →
        (s.inputs = .setLowPower d :: rest →
          step s = .next { s with inputs := rest, devices := s.devices.set d { dev with state := .lowPower } }) ∧
        (s.inputs = .setReady d :: rest →
          step s = .next { s with inputs := rest, devices := s.devices.set d { dev with state := .ready } }) ∧
        (∀ v, s.inputs = .forceActive d v :: rest →
          step s = .next { s with inputs := rest, devices := s.devices.set d { dev with active := v } }) ∧
        (∀ b, s.inputs = .setAddress d b :: rest →
          (alphanumeric b = false → step s = .next { s with inputs := rest, hostResult := some false }) ∧
          (alphanumeric b = true → step s = .next { s with
            inputs := rest, hostResult := some true, devices := s.devices.set d { dev with address := b },
            storage := mirrored dev b s.storage, trace := s.trace ++ mirrorEffects dev b }))) ∧
      (∀ d b v i, s.devices.length ≤ d → i ∈ [Input.setLowPower d, .setReady d, .forceActive d v, .setAddress d b] →
        s.inputs = i :: rest → step s = .next { s with inputs := rest }))

/-! ### Dispatch -/

/-- R84, R232, R173: a command that no device takes has no effect at all, whichever it is. -/
def Obligations.UntakenCommandIsIgnored : Prop :=
  ∀ (i : Instr) (s : State), (∀ dev ∈ s.devices, dev.takes i.address = false) → exec i s = .next s

/-- R217: no command enters LowPower, and a device in it matches no command, sends nothing and changes nothing. -/
def Obligations.LowPowerDeviceIsInert : Prop :=
  (∀ (i : Instr) (s t : State) (d : Nat) (dev : Device), exec i s = .next t → s.devices[d]? = some dev →
    dev.state = .lowPower → t.devices[d]? = some dev) ∧
  (∀ (i : Instr) (s t : State) (d : Nat) (dev : Device), exec i s = .next t → t.devices[d]? = some dev →
    dev.state = .lowPower → s.devices[d]? = some dev) ∧
  (∀ (i : Instr) (s : State), (∀ dev ∈ s.devices, dev.state = .lowPower) → exec i s = .next s)

/-- R161, R236: a command that is not UNKNOWN, taken while a device is active or the registry is occupied, raises
ContractViolation with the number of the first device that takes it. -/
def Obligations.ClaimedMatchRaisesContractViolation : Prop :=
  ∀ (i : Instr) (s : State) (d : Nat) (dev : Device), i.mclass ≠ .unknown → s.blocked = false → s.claimed = true →
    s.devices[d]? = some dev → dev.takes i.address = true →
    (∀ k other, k < d → s.devices[k]? = some other → other.takes i.address = false) →
    exec i s = .fault (.contractViolation d)

/-- R230, R255, R217: from a quiescent state, if the slots suffice and the environment answers every acquisition with values,
every command completes, every device that was Ready is Ready again, and every one the host put in LowPower is still there. -/
def Obligations.EveryCommandReturnsToReady : Prop :=
  ∀ (i : Instr) (s : State), s.Quiescent → numValues < s.cfg.lineSlots → s.devices.length ≤ s.envs.length →
    (∀ e ∈ s.envs, e.vals.isSome = true) →
    ∃ t, exec i s = .next t ∧ t.Quiescent ∧ t.devices.map (·.state) = s.devices.map (·.state)

/-- R263: a completed command that did anything ends by re-arming reception. -/
def Obligations.CompletedCycleRearmsReception : Prop :=
  ∀ (i : Instr) (s t : State), exec i s = .next t → t.blocked = false →
    t.trace = s.trace ∨ ∃ effs, t.trace = s.trace ++ effs ++ [.forceListen]

/-! ### Commands answered at once, by every device that takes them -/

/-- AQRY and ACK (R163, R164). -/
def Obligations.AddressReplyOfQueryAndAcknowledge : Prop :=
  ∀ (s : State) (a : Byte) (p1 p2 : BitVec 16), s.Open →
    exec (.aqry a p1 p2) s = .next (s.answered a (·.cycled false) (plainReply · [])) ∧
    exec (.ack a p1 p2) s = .next (s.answered a (·.cycled false) (plainReply · [])) ∧
    encode (.aqry a p1 p2) = encodeFields a 0 0 p1 p2 ∧ encode (.ack a p1 p2) = encodeFields a 1 0 p1 p2

/-- IDENT (R165). -/
def Obligations.IdentityReply : Prop :=
  ∀ (s : State) (a : Byte) (p1 p2 : BitVec 16), s.Open →
    exec (.ident a p1 p2) s = .next (s.answered a (·.cycled false) (plainReply · s.cfg.identString)) ∧
    encode (.ident a p1 p2) = encodeFields a 2 0 p1 p2

/-- SetAddress (R167). -/
def Obligations.SetAddressMutatesAlphanumericOnly : Prop :=
  ∀ (s : State) (d : Nat) (dev : Device) (b : Byte), s.devices[d]? = some dev →
    (alphanumeric b = false → s.setAddress d b = (s, false)) ∧
    (alphanumeric b = true → s.setAddress d b =
      ({ s with devices := s.devices.set d { dev with address := b }, storage := mirrored dev b s.storage,
                trace := s.trace ++ mirrorEffects dev b }, true))

/-- ACHG (R166): accepted, the reply carries the new address after the StorageWrite; refused, the old one. -/
def Obligations.AddressChangeReply : Prop :=
  ∀ (s : State) (a : Byte) (p1 p2 : BitVec 16), s.Open →
    (∀ b, acceptedAddress p1 = some b →
      exec (.achg a p1 p2) s = .next { s.answered a (fun dev => { dev.cycled false with address := b })
          (fun dev => mirrorEffects dev b ++ [.send (b :: crlf), .forceListen]) with
        storage := s.devices.foldl (fun m dev => if dev.takes a then mirrored dev b m else m) s.storage }) ∧
    (acceptedAddress p1 = none →
      exec (.achg a p1 p2) s = .next (s.answered a (·.cycled false) (plainReply · []))) ∧
    encode (.achg a p1 p2) = encodeFields a 3 0 p1 p2

/-- DATA (R169). -/
def Obligations.DataRequestReply : Prop :=
  ∀ (s : State) (a : Byte) (q : Qualifier) (p1 p2 : BitVec 16), s.Open →
    (p1.toNat < s.cfg.lineSlots → exec (.data a q p1 p2) s =
      .next (s.answered a (·.cycled (crcq q)) (fun dev => dataReply dev (dev.lines.getD p1.toNat []) q))) ∧
    (s.cfg.lineSlots ≤ p1.toNat → exec (.data a q p1 p2) s =
      .next (s.answered a (·.cycled (crcq q)) (fun dev => dataReply dev [] q))) ∧
    encode (.data a q p1 p2) = encodeFields a 9 (if q = .crc then 7 else 0) p1 p2

/-- BDATA (R171, R81): the frame is address, length 0, tag 0, and with CRC the checksum low byte first. -/
def Obligations.ByteDataReply : Prop :=
  ∀ (s : State) (a : Byte) (p1 p2 : BitVec 16), s.Open →
    exec (.bdata a .plain p1 p2) s = .next (s.answered a (·.cycled false)
      (fun dev => [.send [dev.address, 0, 0, 0], .forceListen])) ∧
    exec (.bdata a .crc p1 p2) s = .next (s.answered a (·.cycled true)
      (fun dev => [.send [dev.address, 0, 0, 0,
        BitVec.ofNat 8 ((Config.crcRaw [dev.address, 0, 0, 0]).toNat % 256),
        BitVec.ofNat 8 ((Config.crcRaw [dev.address, 0, 0, 0]).toNat / 256)], .forceListen])) ∧
    encode (.bdata a .plain p1 p2) = encodeFields a 10 0 p1 p2 ∧
    encode (.bdata a .crc p1 p2) = encodeFields a 10 7 p1 p2

/-- UNKNOWN (R172, R233): the rejection reply, even while a device is active or the registry is occupied, and no register
written. -/
def Obligations.UnknownIsRejected : Prop :=
  ∀ (s : State) (a : Byte) (pr se : BitVec 4) (p1 p2 : BitVec 16), s.blocked = false →
    exec (.unknown a pr se p1 p2) s = .next (s.answered a (fun dev => dev) (plainReply · s.cfg.rejectPayload))

/-- IDENT.M, IDENT.C, IDENT.HA, IDENT.HB (R191, R195, R203, R208, R210): the token chosen by `param1`, and nothing else. -/
def Obligations.ProbeAnswersOnlyTheToken : Prop :=
  ∀ (s : State) (a : Byte) (p1 p2 : BitVec 16), s.Open →
    exec (.identM a p1 p2) s = .next (s.answered a (·.cycled false)
      (plainReply · (if p1 = 0 then [0x30, 0x32, 0x31, 0x39] else [0x30, 0x30, 0x30, 0x30]))) ∧
    exec (.identC a p1 p2) s = .next (s.answered a (·.cycled false)
      (plainReply · (if p1 = 0 then [0x30, 0x32, 0x31, 0x30, 0x39] else [0x30, 0x30, 0x30, 0x30, 0x30]))) ∧
    (∀ i, i = Instr.identHA a p1 p2 ∨ i = Instr.identHB a p1 p2 →
      exec i s = .next (s.answered a (·.cycled false)
        (plainReply · (if p1 = 0 then [0x30, 0x32, 0x31, 0x30, 0x30, 0x39] else [0x30, 0x30, 0x30, 0x30, 0x30, 0x30])))) ∧
    encode (.identM a p1 p2) = encodeFields a 2 1 p1 p2 ∧ encode (.identC a p1 p2) = encodeFields a 2 2 p1 p2 ∧
    encode (.identHA a p1 p2) = encodeFields a 2 4 p1 p2 ∧ encode (.identHB a p1 p2) = encodeFields a 2 5 p1 p2

/-- IDENT.R (R213) and IDENT.V (R215). -/
def Obligations.ContinuousAndVerifyProbes : Prop :=
  ∀ (s : State) (a : Byte) (p1 p2 : BitVec 16), s.Open →
    exec (.identR a p1 p2) s = .next (s.answered a (·.cycled false) (plainReply · s.cfg.contProbeToken)) ∧
    exec (.identV a p1 p2) s = .next (s.answered a (·.cycled false) (plainReply · [0x30, 0x30, 0x30, 0x30])) ∧
    encode (.identR a p1 p2) = encodeFields a 2 3 p1 p2 ∧ encode (.identV a p1 p2) = encodeFields a 2 6 p1 p2

/-- VERIFY (R214): the token "0000" and every slot cleared. -/
def Obligations.VerifyClearsTheLines : Prop :=
  ∀ (s : State) (a : Byte) (q : Qualifier) (p1 p2 : BitVec 16), s.Open →
    exec (.verify a q p1 p2) s = .next (s.answered a
      (·.cleared s.cfg.lineSlots (crcq q))
      (plainReply · [0x30, 0x30, 0x30, 0x30])) ∧
    encode (.verify a q p1 p2) = encodeFields a 11 (if q = .crc then 7 else 0) p1 p2

/-- MEAS, CONC, HVA, HVB with `param1` other than 0 (R194): the all-zero token, every slot cleared, no acquisition. -/
def Obligations.UnsupportedIndexClearsTheLines : Prop :=
  ∀ (s : State) (a : Byte) (q : Qualifier) (p1 p2 : BitVec 16), s.Open → p1 ≠ 0 →
    exec (.meas a q p1 p2) s = .next (s.answered a
      (·.cleared s.cfg.lineSlots (crcq q))
      (plainReply · [0x30, 0x30, 0x30, 0x30])) ∧
    exec (.conc a q p1 p2) s = .next (s.answered a
      (·.cleared s.cfg.lineSlots (crcq q))
      (plainReply · [0x30, 0x30, 0x30, 0x30, 0x30])) ∧
    ∀ i, i = Instr.hva a q p1 p2 ∨ i = Instr.hvb a q p1 p2 →
      exec i s = .next (s.answered a
        (·.cleared s.cfg.lineSlots (crcq q))
        (plainReply · [0x30, 0x30, 0x30, 0x30, 0x30, 0x30]))

/-! ### Acquisitions of a served device

That an acquisition draws its `env` from State (`envs`, `drawn`) is the model's choice, log entry 2; that a Poll which never
returns sets `blocked` is the model's choice, log entry 7; that a framing error inside Drain (R235) shows in the trace as
ClearBuffer directly after Drain is DEDUCED, log entry 13. The statements are about a state in which one device takes the
command (Served). -/

/-- MEAS (R192), not cancelled: token, delay, poll, checkpoint, the lines of PACK at SHORT_CAP, completion notice.
Log entries 2 and 13. -/
def Obligations.MeasurementPacksAndNotifies : Prop :=
  ∀ (s : State) (a : Byte) (q : Qualifier) (p2 : BitVec 16) (d : Nat) (dev : Device) (vals : Values) (ls : List Bytes),
    Served s a d dev → s.nextEnv.vals = some vals → s.nextEnv.lb = false → s.nextEnv.deact = false →
    pack s.cfg.lineSlots s.cfg.packStrict vals.toList 6 s.cfg.fieldCap 35 = some ls →
    exec (.meas a q 0 p2) s = .next (s.afterAcquisition d { dev.cycled (crcq q) with lines := ls }
      (acquisitionEffects dev [0x30, 0x32, 0x31, 0x39] s.nextEnv [.send (dev.address :: crlf), .forceListen])) ∧
    encode (.meas a q 0 p2) = encodeFields a 4 (if q = .crc then 7 else 0) 0 p2

/-- MEAS cancelled by a line break or a deactivation (R193, R238, R240, R242). Log entries 2 and 13. -/
def Obligations.MeasurementCancelled : Prop :=
  ∀ (s : State) (a : Byte) (q : Qualifier) (p2 : BitVec 16) (d : Nat) (dev : Device),
    Served s a d dev → s.nextEnv.vals.isSome = true → (s.nextEnv.lb = true ∨ s.nextEnv.deact = true) →
    exec (.meas a q 0 p2) s = .next (s.afterAcquisition d
      (dev.cleared s.cfg.lineSlots (crcq q))
      (acquisitionEffects dev [0x30, 0x32, 0x31, 0x39] s.nextEnv
        (if s.nextEnv.lb then [.clearLineBreak, .forceListen] else [.forceListen])))

/-- CONC (R200) and HVA (R207), not cancelled: the lines of PACK at LONG_CAP, no notice, the line break not looked at.
Log entries 2 and 13. -/
def Obligations.ReleaseMeasurementPacks : Prop :=
  ∀ (s : State) (a : Byte) (q : Qualifier) (p2 : BitVec 16) (d : Nat) (dev : Device) (vals : Values) (ls : List Bytes),
    Served s a d dev → s.nextEnv.vals = some vals →
    (∀ w ∈ s.nextEnv.newcmds, dev.matches (Record.address w) = false) →
    pack s.cfg.lineSlots s.cfg.packStrict vals.toList 6 s.cfg.fieldCap 75 = some ls →
    exec (.conc a q 0 p2) s = .next (s.afterAcquisition d { dev.cycled (crcq q) with lines := ls }
      (acquisitionEffects dev [0x30, 0x32, 0x31, 0x30, 0x39] s.nextEnv [.forceListen])) ∧
    exec (.hva a q 0 p2) s = .next (s.afterAcquisition d { dev.cycled (crcq q) with lines := ls }
      (acquisitionEffects dev [0x30, 0x32, 0x31, 0x30, 0x30, 0x39] s.nextEnv [.forceListen])) ∧
    encode (.conc a q 0 p2) = encodeFields a 5 (if q = .crc then 7 else 0) 0 p2 ∧
    encode (.hva a q 0 p2) = encodeFields a 6 (if q = .crc then 7 else 0) 0 p2

/-- CONC and HVA cancelled by a drained command that matches the device (R201, R238). Log entries 2 and 13. -/
def Obligations.ReleaseMeasurementCancelled : Prop :=
  ∀ (s : State) (a : Byte) (q : Qualifier) (p2 : BitVec 16) (d : Nat) (dev : Device),
    Served s a d dev → s.nextEnv.vals.isSome = true →
    (∃ w ∈ s.nextEnv.newcmds, dev.matches (Record.address w) = true) →
    exec (.conc a q 0 p2) s = .next (s.afterAcquisition d
      (dev.cleared s.cfg.lineSlots (crcq q))
      (acquisitionEffects dev [0x30, 0x32, 0x31, 0x30, 0x39] s.nextEnv [.forceListen])) ∧
    exec (.hva a q 0 p2) s = .next (s.afterAcquisition d
      (dev.cleared s.cfg.lineSlots (crcq q))
      (acquisitionEffects dev [0x30, 0x32, 0x31, 0x30, 0x30, 0x39] s.nextEnv [.forceListen]))

/-- HVB (R209): the cycle runs and on every path the lines end empty. Log entries 2 and 13. -/
def Obligations.HighVolumeByteEmptiesTheLines : Prop :=
  ∀ (s : State) (a : Byte) (q : Qualifier) (p2 : BitVec 16) (d : Nat) (dev : Device),
    Served s a d dev → s.nextEnv.vals.isSome = true →
    exec (.hvb a q 0 p2) s = .next (s.afterAcquisition d
      (dev.cleared s.cfg.lineSlots (crcq q))
      (acquisitionEffects dev [0x30, 0x32, 0x31, 0x30, 0x30, 0x39] s.nextEnv [.forceListen])) ∧
    encode (.hvb a q 0 p2) = encodeFields a 7 (if q = .crc then 7 else 0) 0 p2

/-- CONT (R211): one Poll and one value, encoded as PACK encodes it; an index at or above NUM_VALUES sends nothing. -/
def Obligations.ContinuousSendsOneValue : Prop :=
  ∀ (s : State) (a : Byte) (q : Qualifier) (p1 p2 : BitVec 16) (d : Nat) (dev : Device) (vals : Values),
    Served s a d dev → s.nextEnv.vals = some vals →
    (∀ v, vals.toList[p1.toNat]? = some v → exec (.cont a q p1 p2) s = .next
      { s.afterCycle d (dev.cycled (crcq q))
          (.poll :: dataReply dev (encodeValue v 6 s.cfg.fieldCap false true).text q) with
        envs := s.envs.tail, drawn := s.drawn + 1 }) ∧
    (9 ≤ p1.toNat → exec (.cont a q p1 p2) s = .next
      { s.afterCycle d (dev.cycled (crcq q)) (.poll :: dataReply dev [] q) with
        envs := s.envs.tail, drawn := s.drawn + 1 }) ∧
    encode (.cont a q p1 p2) = encodeFields a 8 (if q = .crc then 7 else 0) p1 p2

/-- R255: a Poll that never returns holds the engine in the measurement state, active, with the synchronous reply (not
CONT's) already sent; no later step moves it. -/
def Obligations.BlockedPollHoldsTheEngine : Prop :=
  ∀ (s : State) (a : Byte) (q : Qualifier) (p1 p2 : BitVec 16) (d : Nat) (dev : Device),
    Served s a d dev → s.nextEnv.vals = none →
    (∀ i st tok, (i, st, tok) ∈ [(Instr.meas a q 0 p2, DevState.measurement, ([0x30, 0x32, 0x31, 0x39] : Bytes)),
        (.conc a q 0 p2, .concurrent, [0x30, 0x32, 0x31, 0x30, 0x39]),
        (.hva a q 0 p2, .highVolumeMeasurement, [0x30, 0x32, 0x31, 0x30, 0x30, 0x39]),
        (.hvb a q 0 p2, .highVolumeMeasurement, [0x30, 0x32, 0x31, 0x30, 0x30, 0x39])] →
      ∃ t, exec i s = .next t ∧ step t = .next t ∧
        t = { s.afterCycle d { dev with active := true, state := st, crcRequested := crcq q }
            [.send (dev.address :: (tok ++ crlf)), .delay, .poll] with
          envs := s.envs.tail, drawn := s.drawn + 1, blocked := true }) ∧
    ∃ t, exec (.cont a q p1 p2) s = .next t ∧ step t = .next t ∧
      t = { s.afterCycle d { dev with active := true, state := .continuous, crcRequested := crcq q } [.poll] with
        registry := some d, envs := s.envs.tail, drawn := s.drawn + 1, blocked := true }

/-- R146 (ii), U14: values that need a line beyond LINE_SLOTS are refused; they never are when there are more slots than
values. That the refusal comes in the cycle that packs, with the device's number, and not before the run, is the model's
choice (log entry 8). -/
def Obligations.PackingBeyondTheSlotsIsRefused : Prop :=
  (∀ (s : State) (a : Byte) (q : Qualifier) (p2 : BitVec 16) (d : Nat) (dev : Device) (vals : Values),
    Served s a d dev → s.nextEnv.vals = some vals →
    (s.nextEnv.lb = false → s.nextEnv.deact = false →
      pack s.cfg.lineSlots s.cfg.packStrict vals.toList 6 s.cfg.fieldCap 35 = none →
      exec (.meas a q 0 p2) s = .refused (.lineSlotsExhausted d)) ∧
    ((∀ w ∈ s.nextEnv.newcmds, dev.matches (Record.address w) = false) →
      pack s.cfg.lineSlots s.cfg.packStrict vals.toList 6 s.cfg.fieldCap 75 = none →
      exec (.conc a q 0 p2) s = .refused (.lineSlotsExhausted d) ∧
      exec (.hva a q 0 p2) s = .refused (.lineSlotsExhausted d))) ∧
  (∀ (slots : Nat) (strict : Bool) (vals : List F64) (p fcap : BitVec 8) (cap : Nat), vals.length < slots →
    (pack slots strict vals p fcap cap).isSome = true)

/-! ### Frames over every state and every outcome -/

/-- R22, R36: no step changes the configuration, the number of devices or a storage slot. -/
def Obligations.StepLeavesTheConfiguration : Prop :=
  ∀ s t : State, step s = .next t →
    t.cfg = s.cfg ∧ t.devices.map (·.storageSlot) = s.devices.map (·.storageSlot)

/-- R56: a command other than ACHG writes no storage and emits no StorageWrite; ACHG leaves every byte that is no taking
device's slot, and every byte when it is refused. -/
def Obligations.StorageIsWrittenOnlyByAddressChange : Prop :=
  (∀ (i : Instr) (s t : State), i.mclass ≠ .addressChange → exec i s = .next t →
    t.storage = s.storage ∧ ∃ effs, t.trace = s.trace ++ effs ∧ ∀ k b, Effect.storageWrite k b ∉ effs) ∧
  (∀ (a : Byte) (p1 p2 : BitVec 16) (s t : State), s.storage.wf = true → exec (.achg a p1 p2) s = .next t →
    (acceptedAddress p1 = none → t.storage = s.storage) ∧
    ∀ x : Nat, (∀ dev ∈ s.devices, dev.takes a = true → dev.storageSlot ≠ some x) →
      t.storage.read x = s.storage.read x)

/-- R27, R266: only MEAS, CONC, HVA, HVB and VERIFY write line slots. -/
def Obligations.LinesAreWrittenOnlyByMeasurements : Prop :=
  ∀ (i : Instr) (s t : State), exec i s = .next t →
    (i.isProbe = true ∨ i.mclass = .continuousMeasurement ∨ i.mclass.measurementClass = false) →
    t.devices.map (·.lines) = s.devices.map (·.lines)

/-- R21: only ACHG writes an address, and then only with the accepted byte. -/
def Obligations.AddressesAreWrittenOnlyByAddressChange : Prop :=
  ∀ (i : Instr) (s t : State) (d : Nat) (v w : Device), exec i s = .next t → s.devices[d]? = some v →
    t.devices[d]? = some w →
    w.address = v.address ∨ (i.mclass = .addressChange ∧ acceptedAddress i.param1 = some w.address)

/-- What no command changes: the inputs still to come and the host's last result; what it only extends: the trace and
`pending`; and without an acquisition `pending` and the `env` answers stay as they were (R10, R239). -/
def Obligations.CommandLeavesTheQueues : Prop :=
  ∀ (i : Instr) (s t : State), exec i s = .next t →
    t.inputs = s.inputs ∧ t.hostResult = s.hostResult ∧ (∃ effs, t.trace = s.trace ++ effs) ∧
    (∃ cmds, t.pending = s.pending ++ cmds) ∧
    ((i.isProbe = true ∨ i.mclass.measurementClass = false ∨ i.mclass = .verification) →
      t.pending = s.pending ∧ t.envs = s.envs ∧ t.drawn = s.drawn ∧ t.blocked = s.blocked)

/-! ### Binary64 -/

/-- R8: `toF64(n)` is exact below 2^53, and `trunc` goes toward zero; R109: the subtraction of the integer part leaves
exactly the fractional part, with sign plus. -/
def Obligations.IntegerPartArithmeticIsExact : Prop :=
  (∀ n : Nat, n < 2 ^ 53 → F64.scaled (F64.ofNat n) = n * F64.unit ∧ F64.sign (F64.ofNat n) = false) ∧
  (∀ v : F64, (F64.trunc v).natAbs * F64.unit ≤ F64.scaled v ∧ F64.scaled v < ((F64.trunc v).natAbs + 1) * F64.unit ∧
    (F64.sign v = true → F64.trunc v ≤ 0) ∧ (F64.sign v = false → 0 ≤ F64.trunc v)) ∧
  (∀ mag : F64, F64.sign mag = false → F64.integerPart mag < 2 ^ 53 →
    F64.trunc mag = F64.integerPart mag ∧
    F64.scaled (F64.sub mag (F64.ofNat (F64.integerPart mag))) = F64.scaled mag % F64.unit ∧
    F64.sign (F64.sub mag (F64.ofNat (F64.integerPart mag))) = false)

/-- R8: a rounding is to nearest: no finite binary64 is nearer to `n / 2^k` than a finite result; so `fsub` and `fmul` of
finite operands are the exact difference and product rounded once. Beside it what IEEE 754 gives the other operands: the
sign of an exact zero, infinities, and NaNs. Which NaN a NaN is, is a free value (log entry 27). -/
def Obligations.RoundingIsToNearest : Prop :=
  (∀ (n k : Nat) (y : F64), F64.exponent (F64.roundMag n k) < 2047 → F64.exponent y < 2047 →
    ((F64.scaled (F64.roundMag n k) : Int) * 2 ^ k - n * F64.unit).natAbs ≤
      ((F64.scaled y : Int) * 2 ^ k - n * F64.unit).natAbs) ∧
  (∀ a b y : F64, F64.exponent a < 2047 → F64.exponent b < 2047 → F64.exponent y < 2047 →
    (F64.exponent (F64.sub a b) < 2047 →
      (F64.toInt (F64.sub a b) - (F64.toInt a - F64.toInt b)).natAbs ≤
        (F64.toInt y - (F64.toInt a - F64.toInt b)).natAbs) ∧
    (F64.exponent (F64.mul a b) < 2047 →
      (F64.toInt (F64.mul a b) * F64.unit - F64.toInt a * F64.toInt b).natAbs ≤
        (F64.toInt y * F64.unit - F64.toInt a * F64.toInt b).natAbs) ∧
    F64.sign (F64.mul a b) = (F64.sign a != F64.sign b) ∧
    (F64.toInt a = F64.toInt b →
      F64.sub a b = if F64.sign a = true ∧ F64.sign b = false then 0x8000000000000000 else 0)) ∧
  (∀ a b : F64, F64.isNaN a = true ∨ F64.isNaN b = true →
    F64.isNaN (F64.sub a b) = true ∧ F64.isNaN (F64.mul a b) = true) ∧
  (∀ a b : F64, F64.isInf a = true →
    (F64.exponent b < 2047 → F64.sub a b = a ∧ F64.sub b a = F64.neg a) ∧
    (F64.isInf b = true → F64.isNaN (F64.sub a b) = (F64.sign a == F64.sign b)) ∧
    (F64.isNaN b = false → F64.isNaN (F64.mul a b) = (F64.scaled b == 0) ∧ F64.isNaN (F64.mul b a) = (F64.scaled b == 0)))

/-! ### ENCODE -/

/-- R102, R103, R116: a NaN or an infinity is Overflow whatever the other inputs: text "NaN", length 0. -/
def Obligations.NaNAndInfinityOverflow : Prop :=
  ∀ (v : F64) (p l : BitVec 8) (ktz plus : Bool), F64.isNaN v = true ∨ F64.isInf v = true →
    encodeValue v p l ktz plus = .overflow ∧ (encodeValue v p l ktz plus).text = [0x4E, 0x61, 0x4E] ∧
      (encodeValue v p l ktz plus).length = 0 ∧ (encodeValue v p l ktz plus).port = [0x4E, 0x61, 0x4E, 0x00]

/-- R105: the precision is `min(P, 9)`: one above 9 encodes as 9 does, and with trailing zeros kept and no cap the text has a
point and exactly `min(P, 9)` digits after it, or for 0 no point. -/
def Obligations.PrecisionIsClamped : Prop :=
  (∀ (v : F64) (p l : BitVec 8) (ktz plus : Bool), 9 ≤ p.toNat →
    encodeValue v p l ktz plus = encodeValue v 9 l ktz plus) ∧
  (∀ (v : F64) (p : BitVec 8) (plus : Bool), F64.isNaN v = false → F64.isInf v = false →
    ∃ text, encodeValue v p 0 true plus = .ok text ∧
      (text.dropWhile (· != 0x2E)).length = if p = 0 then 0 else min p.toNat 9 + 1)

/-- R106: with a cap, a finite value is Overflow exactly when the digits of its integral part alone reach the cap, whatever
the precision and the sign; without a cap it never is. -/
def Obligations.OverflowExactlyWhenIntegralDigitsReachTheCap : Prop :=
  ∀ (v : F64) (p l : BitVec 8) (ktz plus : Bool), F64.isNaN v = false → F64.isInf v = false →
    (encodeValue v p l ktz plus = .overflow ↔
      0 < l.toNat ∧ (l.toNat = 1 ∨ 10 ^ (l.toNat - 1) ≤ F64.integerPart (if F64.lt v 0 then F64.neg v else v)))

/-- R107, R123: the effective precision under a cap, and that a larger cap never overflows instead nor lowers it. -/
def Obligations.PrecisionShrinksToTheBudget : Prop :=
  (∀ (cap n p : Nat) (signed : Bool), n < cap →
    fitPrecision cap n p signed = some (min p (if signed then cap - n - 2 else cap - n - 1))) ∧
  (∀ (cap cap' n p q : Nat) (signed : Bool), 0 < cap → cap ≤ cap' → fitPrecision cap n p signed = some q →
    ∃ q', fitPrecision cap' n p signed = some q' ∧ q ≤ q') ∧
  (∀ (cap n p : Nat) (signed : Bool), n < cap → p + n + 2 ≤ cap → fitPrecision cap n p signed = fitPrecision 0 n p signed)

/-- R104: the sign character comes from the input alone; -0.0 encodes as +0.0. -/
def Obligations.SignComesFromTheInput : Prop :=
  (∀ (v : F64) (p l : BitVec 8) (ktz plus : Bool) (text : Bytes), encodeValue v p l ktz plus = .ok text →
    (text.head? = some 0x2D ↔ F64.lt v 0 = true) ∧
    (text.head? = some 0x2B ↔ F64.lt v 0 = false ∧ plus = true)) ∧
  (∀ (p l : BitVec 8) (ktz plus : Bool),
    encodeValue 0x8000000000000000 p l ktz plus = encodeValue 0 p l ktz plus)

/-- R110, R112: at a remainder of exactly 0.5 the retained integer is rounded to even; elsewhere it is rounded up exactly when
the remainder exceeds RND_THRESH. -/
def Obligations.TieRoundsToEvenElseThreshold : Prop :=
  ∀ (k : Nat) (r : F64), F64.exponent r < 2047 → F64.sign r = false →
    (2 * F64.scaled r = F64.unit → roundRetained k r % 2 = 0 ∧ k ≤ roundRetained k r ∧ roundRetained k r ≤ k + 1) ∧
    (2 * F64.scaled r ≠ F64.unit →
      roundRetained k r = if F64.scaled 0x3FDFEF9DB22D0E56 < F64.scaled r then k + 1 else k)

/-- R113: FIXED is the correctly rounded conversion, ties to even. R122: so the text of a magnitude above BIG_THRESH reads
back within half a unit of its effective precision `q`. -/
def Obligations.LargePathIsCorrectlyRounded : Prop :=
  (∀ (mag : F64) (p : Nat),
    (fixedDigits mag p).2 < 10 ^ p ∧
    2 * ((((fixedDigits mag p).1 * 10 ^ p + (fixedDigits mag p).2) * F64.unit : Int) - F64.scaled mag * 10 ^ p).natAbs ≤
      F64.unit ∧
    (2 * ((((fixedDigits mag p).1 * 10 ^ p + (fixedDigits mag p).2) * F64.unit : Int) -
        F64.scaled mag * 10 ^ p).natAbs = F64.unit →
      ((fixedDigits mag p).1 * 10 ^ p + (fixedDigits mag p).2) % 2 = 0)) ∧
  (∀ (v : F64) (p l : BitVec 8) (ktz plus : Bool) (text : Bytes), encodeValue v p l ktz plus = .ok text →
    F64.lt bigThresh (magnitude v) = true →
    ∃ (q : Nat) (x : ℚ), effectivePrecision v p l plus = some q ∧ readField text = some x ∧
      |x - F64.real v| ≤ 1 / (2 * 10 ^ q))

/-- R122: on the fast path the text reads back within 0.501 * 10^-q + 2^-53 of the value, `q` the effective precision.
R111: the carry leaves a fraction of at most `p` digits, and the digits before the strip are within the same bound of the
magnitude. -/
def Obligations.FastPathRoundTrip : Prop :=
  (∀ (v : F64) (p l : BitVec 8) (ktz plus : Bool) (text : Bytes), encodeValue v p l ktz plus = .ok text →
    F64.lt bigThresh (magnitude v) = false →
    ∃ (q : Nat) (x : ℚ), effectivePrecision v p l plus = some q ∧ readField text = some x ∧
      |x - F64.real v| ≤ 501 / 1000 / 10 ^ q + 1 / 2 ^ 53) ∧
  (∀ (mag : F64) (p : Nat), p ≤ 9 → F64.sign mag = false → F64.isNaN mag = false → F64.lt bigThresh mag = false →
    (digitsOf mag p).2 < 10 ^ p ∧
    1000 * ((((digitsOf mag p).1 * 10 ^ p + (digitsOf mag p).2) * F64.unit : Int) - F64.scaled mag * 10 ^ p).natAbs ≤
      501 * F64.unit + 1000 * 10 ^ p * 2 ^ (1074 - 53))

/-- R114: the strip removes exactly the trailing zeros of the fraction. -/
def Obligations.StripRemovesExactlyTrailingZeros : Prop :=
  ∀ (p frac : Nat), frac < 10 ^ p →
    (strip p frac).2 ≤ p ∧ frac = (strip p frac).1 * 10 ^ (p - (strip p frac).2) ∧
    (0 < (strip p frac).2 → (strip p frac).1 % 10 ≠ 0) ∧ shownFraction p frac true = (frac, p) ∧
    shownFraction p frac false = strip p frac

/-- R101, R106: `dec` is the decimal numeral without leading zeros, `decpad` to `k` > 0 digits has exactly `k`, every byte of
both is an ASCII digit, `ndigits` counts. -/
def Obligations.DecimalNumerals : Prop :=
  (∀ m : Nat, numeral (dec m) = m ∧ (∀ b ∈ dec m, 0x30 ≤ b.toNat ∧ b.toNat ≤ 0x39) ∧
    ((dec m).head? = some 0x30 → m = 0) ∧ m < 10 ^ ndigits m ∧ (0 < m → 10 ^ (ndigits m - 1) ≤ m)) ∧
  dec 0 = [0x30] ∧
  (∀ m k : Nat, 0 < k → m < 10 ^ k → (decpad m k).length = k ∧ numeral (decpad m k) = m ∧
    ∀ b ∈ decpad m k, 0x30 ≤ b.toNat ∧ b.toNat ≤ 0x39)

/-- R119: the scratch buffer, filled least significant digit first and reversed, is the text of R101 step 8; and the text of
ENCODE is the buffer of its sign and of its digits at the effective precision, stripped unless trailing zeros are kept (R101
steps 6 to 9, R114, R115). -/
def Obligations.DigitBufferReversalIsTheText : Prop :=
  (∀ (neg plus : Bool) (whole frac count : Nat), frac < 10 ^ count →
    bufferText neg plus whole frac count = assemble neg plus whole frac count) ∧
  (∀ (v : F64) (p l : BitVec 8) (ktz plus : Bool) (text : Bytes), encodeValue v p l ktz plus = .ok text →
    ∃ q, effectivePrecision v p l plus = some q ∧
      text = bufferText (F64.lt v 0) plus (digitsOf (magnitude v) q).1
        (shownFraction q (digitsOf (magnitude v) q).2 ktz).1 (shownFraction q (digitsOf (magnitude v) q).2 ktz).2)

/-- R121: the length bound with its two exception shapes, and the bounds without a cap. -/
def Obligations.FieldLengthBound : Prop :=
  ∀ (v : F64) (P l : BitVec 8) (ktz plus : Bool) (text : Bytes) (mag : F64), encodeValue v P l ktz plus = .ok text →
    mag = (if F64.lt v 0 then F64.neg v else v) →
    (0 < l.toNat → text.length ≤ l.toNat ∨
      (text.length = l.toNat + 1 ∧ ∃ p,
        fitPrecision l.toNat (ndigits (F64.integerPart mag)) (min P.toNat 9) (F64.lt v 0 || plus) = some p ∧
        (digitsOf mag p).1 = 10 ^ ndigits (F64.integerPart mag) ∧
        ((p = 0 ∧ (F64.lt v 0 || plus) = true ∧ ndigits (F64.integerPart mag) + 1 = l.toNat) ∨
          (0 < p ∧ ktz = true ∧
            l.toNat = ndigits (F64.integerPart mag) + p + (if F64.lt v 0 || plus then 2 else 1))))) ∧
    (l.toNat = 0 → text.length ≤ 320 ∧ (F64.lt bigThresh mag = false → text.length ≤ 21))

/-! ### PACK -/

/-- R141, R143, R145: PACK is first fit. The fields stand in the lines in order, group after group; within a line every
field but the first was appended because it fits, a line is closed only before a field that does not fit it, and the slots
beyond the last used one are empty. -/
def Obligations.PackIsFirstFit : Prop :=
  ∀ (slots : Nat) (strict : Bool) (vals : List F64) (p fcap : BitVec 8) (cap : Nat) (ls : List Bytes),
    pack slots strict vals p fcap cap = some ls →
    ∃ groups : List (List Bytes),
      groups.flatten = vals.map (fun v => (encodeValue v p fcap false true).text) ∧ groups.length ≤ slots ∧
      ls = groups.map List.flatten ++ List.replicate (slots - groups.length) [] ∧
      (∀ g ∈ groups, ∀ pre f post, g = pre ++ f :: post → pre ≠ [] →
        fits strict pre.flatten.length f.length cap = true) ∧
      (∀ f fs, groups.head? = some (f :: fs) → fits strict 0 f.length cap = true) ∧
      (∀ k g h, groups[k]? = some g → groups[k + 1]? = some h →
        ∃ f fs, h = f :: fs ∧ fits strict g.flatten.length f.length cap = false)

/-- R143, R145, R140: exactly `slots` lines; none reaches the cap if every field alone stays under it (PACK_STRICT); with no
value every slot is empty. -/
def Obligations.PackedLinesStayUnderTheCap : Prop :=
  (∀ (slots : Nat) (strict : Bool) (vals : List F64) (p fcap : BitVec 8) (cap : Nat) (ls : List Bytes),
    pack slots strict vals p fcap cap = some ls → ls.length = slots ∧
    ((∀ v ∈ vals, (encodeValue v p fcap false true).text.length < cap) → 0 < cap → strict = true →
      ∀ l ∈ ls, l.length < cap)) ∧
  (∀ (slots : Nat) (strict : Bool) (p fcap : BitVec 8) (cap : Nat), 0 < slots →
    pack slots strict [] p fcap cap = some (List.replicate slots []))
end

