-- ==== Sys2Proof/Laws/State.lean ====
section
/-! SUPPORT. One lemma per field per update of State, true by rfl, and how a device reads after an update. -/

namespace Sys2Proof.Machine

/-! ### emit -/

@[simp] theorem State.emit_cfg (s : State) (e : Effect) : (s.emit e).cfg = s.cfg := rfl
@[simp] theorem State.emit_devices (s : State) (e : Effect) : (s.emit e).devices = s.devices := rfl
@[simp] theorem State.emit_registry (s : State) (e : Effect) : (s.emit e).registry = s.registry := rfl
@[simp] theorem State.emit_pending (s : State) (e : Effect) : (s.emit e).pending = s.pending := rfl
@[simp] theorem State.emit_storage (s : State) (e : Effect) : (s.emit e).storage = s.storage := rfl
@[simp] theorem State.emit_inputs (s : State) (e : Effect) : (s.emit e).inputs = s.inputs := rfl
@[simp] theorem State.emit_envs (s : State) (e : Effect) : (s.emit e).envs = s.envs := rfl
@[simp] theorem State.emit_drawn (s : State) (e : Effect) : (s.emit e).drawn = s.drawn := rfl
@[simp] theorem State.emit_blocked (s : State) (e : Effect) : (s.emit e).blocked = s.blocked := rfl
@[simp] theorem State.emit_hostResult (s : State) (e : Effect) : (s.emit e).hostResult = s.hostResult := rfl
@[simp] theorem State.emit_trace (s : State) (e : Effect) : (s.emit e).trace = s.trace ++ [e] := rfl

/-! ### updateDev -/

@[simp] theorem State.updateDev_cfg (s : State) (d : Nat) (f : Device → Device) : (s.updateDev d f).cfg = s.cfg := rfl
@[simp] theorem State.updateDev_devices (s : State) (d : Nat) (f : Device → Device) : (s.updateDev d f).devices = s.devices.modify d f := rfl
@[simp] theorem State.updateDev_registry (s : State) (d : Nat) (f : Device → Device) : (s.updateDev d f).registry = s.registry := rfl
@[simp] theorem State.updateDev_pending (s : State) (d : Nat) (f : Device → Device) : (s.updateDev d f).pending = s.pending := rfl
@[simp] theorem State.updateDev_storage (s : State) (d : Nat) (f : Device → Device) : (s.updateDev d f).storage = s.storage := rfl
@[simp] theorem State.updateDev_inputs (s : State) (d : Nat) (f : Device → Device) : (s.updateDev d f).inputs = s.inputs := rfl
@[simp] theorem State.updateDev_envs (s : State) (d : Nat) (f : Device → Device) : (s.updateDev d f).envs = s.envs := rfl
@[simp] theorem State.updateDev_drawn (s : State) (d : Nat) (f : Device → Device) : (s.updateDev d f).drawn = s.drawn := rfl
@[simp] theorem State.updateDev_blocked (s : State) (d : Nat) (f : Device → Device) : (s.updateDev d f).blocked = s.blocked := rfl
@[simp] theorem State.updateDev_hostResult (s : State) (d : Nat) (f : Device → Device) : (s.updateDev d f).hostResult = s.hostResult := rfl
@[simp] theorem State.updateDev_trace (s : State) (d : Nat) (f : Device → Device) : (s.updateDev d f).trace = s.trace := rfl

/-! ### setDevState -/

@[simp] theorem State.setDevState_cfg (s : State) (d : Nat) (st : DevState) : (s.setDevState d st).cfg = s.cfg := rfl
@[simp] theorem State.setDevState_devices (s : State) (d : Nat) (st : DevState) : (s.setDevState d st).devices = s.devices.modify d (fun dev => { dev with state := st }) := rfl
@[simp] theorem State.setDevState_registry (s : State) (d : Nat) (st : DevState) : (s.setDevState d st).registry = s.registry := rfl
@[simp] theorem State.setDevState_pending (s : State) (d : Nat) (st : DevState) : (s.setDevState d st).pending = s.pending := rfl
@[simp] theorem State.setDevState_storage (s : State) (d : Nat) (st : DevState) : (s.setDevState d st).storage = s.storage := rfl
@[simp] theorem State.setDevState_inputs (s : State) (d : Nat) (st : DevState) : (s.setDevState d st).inputs = s.inputs := rfl
@[simp] theorem State.setDevState_envs (s : State) (d : Nat) (st : DevState) : (s.setDevState d st).envs = s.envs := rfl
@[simp] theorem State.setDevState_drawn (s : State) (d : Nat) (st : DevState) : (s.setDevState d st).drawn = s.drawn := rfl
@[simp] theorem State.setDevState_blocked (s : State) (d : Nat) (st : DevState) : (s.setDevState d st).blocked = s.blocked := rfl
@[simp] theorem State.setDevState_hostResult (s : State) (d : Nat) (st : DevState) : (s.setDevState d st).hostResult = s.hostResult := rfl
@[simp] theorem State.setDevState_trace (s : State) (d : Nat) (st : DevState) : (s.setDevState d st).trace = s.trace := rfl

/-! ### clearRegistry -/

@[simp] theorem State.clearRegistry_cfg (s : State) : (s.clearRegistry).cfg = s.cfg := rfl
@[simp] theorem State.clearRegistry_devices (s : State) : (s.clearRegistry).devices = s.devices := rfl
@[simp] theorem State.clearRegistry_registry (s : State) : (s.clearRegistry).registry = none := rfl
@[simp] theorem State.clearRegistry_pending (s : State) : (s.clearRegistry).pending = s.pending := rfl
@[simp] theorem State.clearRegistry_storage (s : State) : (s.clearRegistry).storage = s.storage := rfl
@[simp] theorem State.clearRegistry_inputs (s : State) : (s.clearRegistry).inputs = s.inputs := rfl
@[simp] theorem State.clearRegistry_envs (s : State) : (s.clearRegistry).envs = s.envs := rfl
@[simp] theorem State.clearRegistry_drawn (s : State) : (s.clearRegistry).drawn = s.drawn := rfl
@[simp] theorem State.clearRegistry_blocked (s : State) : (s.clearRegistry).blocked = s.blocked := rfl
@[simp] theorem State.clearRegistry_hostResult (s : State) : (s.clearRegistry).hostResult = s.hostResult := rfl
@[simp] theorem State.clearRegistry_trace (s : State) : (s.clearRegistry).trace = s.trace := rfl

/-! ### setLines -/

@[simp] theorem State.setLines_cfg (s : State) (d : Nat) (ls : List Bytes) : (s.setLines d ls).cfg = s.cfg := rfl
@[simp] theorem State.setLines_devices (s : State) (d : Nat) (ls : List Bytes) : (s.setLines d ls).devices = s.devices.modify d (fun dev => { dev with lines := ls }) := rfl
@[simp] theorem State.setLines_registry (s : State) (d : Nat) (ls : List Bytes) : (s.setLines d ls).registry = s.registry := rfl
@[simp] theorem State.setLines_pending (s : State) (d : Nat) (ls : List Bytes) : (s.setLines d ls).pending = s.pending := rfl
@[simp] theorem State.setLines_storage (s : State) (d : Nat) (ls : List Bytes) : (s.setLines d ls).storage = s.storage := rfl
@[simp] theorem State.setLines_inputs (s : State) (d : Nat) (ls : List Bytes) : (s.setLines d ls).inputs = s.inputs := rfl
@[simp] theorem State.setLines_envs (s : State) (d : Nat) (ls : List Bytes) : (s.setLines d ls).envs = s.envs := rfl
@[simp] theorem State.setLines_drawn (s : State) (d : Nat) (ls : List Bytes) : (s.setLines d ls).drawn = s.drawn := rfl
@[simp] theorem State.setLines_blocked (s : State) (d : Nat) (ls : List Bytes) : (s.setLines d ls).blocked = s.blocked := rfl
@[simp] theorem State.setLines_hostResult (s : State) (d : Nat) (ls : List Bytes) : (s.setLines d ls).hostResult = s.hostResult := rfl
@[simp] theorem State.setLines_trace (s : State) (d : Nat) (ls : List Bytes) : (s.setLines d ls).trace = s.trace := rfl

/-! ### clearLines -/

@[simp] theorem State.clearLines_cfg (s : State) (d : Nat) : (s.clearLines d).cfg = s.cfg := rfl
@[simp] theorem State.clearLines_devices (s : State) (d : Nat) : (s.clearLines d).devices = s.devices.modify d (fun dev => { dev with lines := emptyLines s.cfg }) := rfl
@[simp] theorem State.clearLines_registry (s : State) (d : Nat) : (s.clearLines d).registry = s.registry := rfl
@[simp] theorem State.clearLines_pending (s : State) (d : Nat) : (s.clearLines d).pending = s.pending := rfl
@[simp] theorem State.clearLines_storage (s : State) (d : Nat) : (s.clearLines d).storage = s.storage := rfl
@[simp] theorem State.clearLines_inputs (s : State) (d : Nat) : (s.clearLines d).inputs = s.inputs := rfl
@[simp] theorem State.clearLines_envs (s : State) (d : Nat) : (s.clearLines d).envs = s.envs := rfl
@[simp] theorem State.clearLines_drawn (s : State) (d : Nat) : (s.clearLines d).drawn = s.drawn := rfl
@[simp] theorem State.clearLines_blocked (s : State) (d : Nat) : (s.clearLines d).blocked = s.blocked := rfl
@[simp] theorem State.clearLines_hostResult (s : State) (d : Nat) : (s.clearLines d).hostResult = s.hostResult := rfl
@[simp] theorem State.clearLines_trace (s : State) (d : Nat) : (s.clearLines d).trace = s.trace := rfl

/-! ### reply -/

@[simp] theorem State.reply_cfg (s : State) (d : Nat) (p : Bytes) (c : Bool) : (s.reply d p c).cfg = s.cfg := rfl
@[simp] theorem State.reply_devices (s : State) (d : Nat) (p : Bytes) (c : Bool) : (s.reply d p c).devices = s.devices := rfl
@[simp] theorem State.reply_registry (s : State) (d : Nat) (p : Bytes) (c : Bool) : (s.reply d p c).registry = s.registry := rfl
@[simp] theorem State.reply_pending (s : State) (d : Nat) (p : Bytes) (c : Bool) : (s.reply d p c).pending = s.pending := rfl
@[simp] theorem State.reply_storage (s : State) (d : Nat) (p : Bytes) (c : Bool) : (s.reply d p c).storage = s.storage := rfl
@[simp] theorem State.reply_inputs (s : State) (d : Nat) (p : Bytes) (c : Bool) : (s.reply d p c).inputs = s.inputs := rfl
@[simp] theorem State.reply_envs (s : State) (d : Nat) (p : Bytes) (c : Bool) : (s.reply d p c).envs = s.envs := rfl
@[simp] theorem State.reply_drawn (s : State) (d : Nat) (p : Bytes) (c : Bool) : (s.reply d p c).drawn = s.drawn := rfl
@[simp] theorem State.reply_blocked (s : State) (d : Nat) (p : Bytes) (c : Bool) : (s.reply d p c).blocked = s.blocked := rfl
@[simp] theorem State.reply_hostResult (s : State) (d : Nat) (p : Bytes) (c : Bool) : (s.reply d p c).hostResult = s.hostResult := rfl
@[simp] theorem State.reply_trace (s : State) (d : Nat) (p : Bytes) (c : Bool) : (s.reply d p c).trace = s.trace ++ [.send (asciiReply (s.dev d) p c)] := rfl

/-! ### sendFrame -/

@[simp] theorem State.sendFrame_cfg (s : State) (d : Nat) : (s.sendFrame d).cfg = s.cfg := rfl
@[simp] theorem State.sendFrame_devices (s : State) (d : Nat) : (s.sendFrame d).devices = s.devices := rfl
@[simp] theorem State.sendFrame_registry (s : State) (d : Nat) : (s.sendFrame d).registry = s.registry := rfl
@[simp] theorem State.sendFrame_pending (s : State) (d : Nat) : (s.sendFrame d).pending = s.pending := rfl
@[simp] theorem State.sendFrame_storage (s : State) (d : Nat) : (s.sendFrame d).storage = s.storage := rfl
@[simp] theorem State.sendFrame_inputs (s : State) (d : Nat) : (s.sendFrame d).inputs = s.inputs := rfl
@[simp] theorem State.sendFrame_envs (s : State) (d : Nat) : (s.sendFrame d).envs = s.envs := rfl
@[simp] theorem State.sendFrame_drawn (s : State) (d : Nat) : (s.sendFrame d).drawn = s.drawn := rfl
@[simp] theorem State.sendFrame_blocked (s : State) (d : Nat) : (s.sendFrame d).blocked = s.blocked := rfl
@[simp] theorem State.sendFrame_hostResult (s : State) (d : Nat) : (s.sendFrame d).hostResult = s.hostResult := rfl
@[simp] theorem State.sendFrame_trace (s : State) (d : Nat) : (s.sendFrame d).trace = s.trace ++ [.send (byteFrame (s.dev d))] := rfl

/-! ### finish -/

@[simp] theorem State.finish_cfg (s : State) (d : Nat) : (s.finish d).cfg = s.cfg := rfl
@[simp] theorem State.finish_devices (s : State) (d : Nat) : (s.finish d).devices = s.devices.modify d Device.finished := rfl
@[simp] theorem State.finish_registry (s : State) (d : Nat) : (s.finish d).registry = s.registry := rfl
@[simp] theorem State.finish_pending (s : State) (d : Nat) : (s.finish d).pending = s.pending := rfl
@[simp] theorem State.finish_storage (s : State) (d : Nat) : (s.finish d).storage = s.storage := rfl
@[simp] theorem State.finish_inputs (s : State) (d : Nat) : (s.finish d).inputs = s.inputs := rfl
@[simp] theorem State.finish_envs (s : State) (d : Nat) : (s.finish d).envs = s.envs := rfl
@[simp] theorem State.finish_drawn (s : State) (d : Nat) : (s.finish d).drawn = s.drawn := rfl
@[simp] theorem State.finish_blocked (s : State) (d : Nat) : (s.finish d).blocked = s.blocked := rfl
@[simp] theorem State.finish_hostResult (s : State) (d : Nat) : (s.finish d).hostResult = s.hostResult := rfl
@[simp] theorem State.finish_trace (s : State) (d : Nat) : (s.finish d).trace = s.trace ++ [.forceListen] := rfl

/-! ### activate -/

@[simp] theorem State.activate_cfg (s : State) (d : Nat) (crc : Bool) : (s.activate d crc).cfg = s.cfg := rfl
@[simp] theorem State.activate_devices (s : State) (d : Nat) (crc : Bool) : (s.activate d crc).devices = s.devices.modify d (fun dev => dev.activated crc) := rfl
@[simp] theorem State.activate_registry (s : State) (d : Nat) (crc : Bool) : (s.activate d crc).registry = some d := rfl
@[simp] theorem State.activate_pending (s : State) (d : Nat) (crc : Bool) : (s.activate d crc).pending = s.pending := rfl
@[simp] theorem State.activate_storage (s : State) (d : Nat) (crc : Bool) : (s.activate d crc).storage = s.storage := rfl
@[simp] theorem State.activate_inputs (s : State) (d : Nat) (crc : Bool) : (s.activate d crc).inputs = s.inputs := rfl
@[simp] theorem State.activate_envs (s : State) (d : Nat) (crc : Bool) : (s.activate d crc).envs = s.envs := rfl
@[simp] theorem State.activate_drawn (s : State) (d : Nat) (crc : Bool) : (s.activate d crc).drawn = s.drawn := rfl
@[simp] theorem State.activate_blocked (s : State) (d : Nat) (crc : Bool) : (s.activate d crc).blocked = s.blocked := rfl
@[simp] theorem State.activate_hostResult (s : State) (d : Nat) (crc : Bool) : (s.activate d crc).hostResult = s.hostResult := rfl
@[simp] theorem State.activate_trace (s : State) (d : Nat) (crc : Bool) : (s.activate d crc).trace = s.trace := rfl

/-! ### closeCycle -/

@[simp] theorem State.closeCycle_cfg (s : State) (d : Nat) : (s.closeCycle d).cfg = s.cfg := rfl
@[simp] theorem State.closeCycle_devices (s : State) (d : Nat) : (s.closeCycle d).devices = s.devices.modify d Device.finished := rfl
@[simp] theorem State.closeCycle_registry (s : State) (d : Nat) : (s.closeCycle d).registry = none := rfl
@[simp] theorem State.closeCycle_pending (s : State) (d : Nat) : (s.closeCycle d).pending = s.pending := rfl
@[simp] theorem State.closeCycle_storage (s : State) (d : Nat) : (s.closeCycle d).storage = s.storage := rfl
@[simp] theorem State.closeCycle_inputs (s : State) (d : Nat) : (s.closeCycle d).inputs = s.inputs := rfl
@[simp] theorem State.closeCycle_envs (s : State) (d : Nat) : (s.closeCycle d).envs = s.envs := rfl
@[simp] theorem State.closeCycle_drawn (s : State) (d : Nat) : (s.closeCycle d).drawn = s.drawn := rfl
@[simp] theorem State.closeCycle_blocked (s : State) (d : Nat) : (s.closeCycle d).blocked = s.blocked := rfl
@[simp] theorem State.closeCycle_hostResult (s : State) (d : Nat) : (s.closeCycle d).hostResult = s.hostResult := rfl
@[simp] theorem State.closeCycle_trace (s : State) (d : Nat) : (s.closeCycle d).trace = s.trace ++ [.forceListen] := rfl

/-! ### drawEnv -/

@[simp] theorem State.drawEnv_cfg (s : State) : (s.drawEnv).cfg = s.cfg := rfl
@[simp] theorem State.drawEnv_devices (s : State) : (s.drawEnv).devices = s.devices := rfl
@[simp] theorem State.drawEnv_registry (s : State) : (s.drawEnv).registry = s.registry := rfl
@[simp] theorem State.drawEnv_pending (s : State) : (s.drawEnv).pending = s.pending := rfl
@[simp] theorem State.drawEnv_storage (s : State) : (s.drawEnv).storage = s.storage := rfl
@[simp] theorem State.drawEnv_inputs (s : State) : (s.drawEnv).inputs = s.inputs := rfl
@[simp] theorem State.drawEnv_envs (s : State) : (s.drawEnv).envs = s.envs.tail := rfl
@[simp] theorem State.drawEnv_drawn (s : State) : (s.drawEnv).drawn = s.drawn + 1 := rfl
@[simp] theorem State.drawEnv_blocked (s : State) : (s.drawEnv).blocked = s.blocked := rfl
@[simp] theorem State.drawEnv_hostResult (s : State) : (s.drawEnv).hostResult = s.hostResult := rfl
@[simp] theorem State.drawEnv_trace (s : State) : (s.drawEnv).trace = s.trace := rfl

/-! ### block -/

@[simp] theorem State.block_cfg (s : State) : (s.block).cfg = s.cfg := rfl
@[simp] theorem State.block_devices (s : State) : (s.block).devices = s.devices := rfl
@[simp] theorem State.block_registry (s : State) : (s.block).registry = s.registry := rfl
@[simp] theorem State.block_pending (s : State) : (s.block).pending = s.pending := rfl
@[simp] theorem State.block_storage (s : State) : (s.block).storage = s.storage := rfl
@[simp] theorem State.block_inputs (s : State) : (s.block).inputs = s.inputs := rfl
@[simp] theorem State.block_envs (s : State) : (s.block).envs = s.envs := rfl
@[simp] theorem State.block_drawn (s : State) : (s.block).drawn = s.drawn := rfl
@[simp] theorem State.block_blocked (s : State) : (s.block).blocked = true := rfl
@[simp] theorem State.block_hostResult (s : State) : (s.block).hostResult = s.hostResult := rfl
@[simp] theorem State.block_trace (s : State) : (s.block).trace = s.trace := rfl

/-! ### storageWrite -/

@[simp] theorem State.storageWrite_cfg (s : State) (slot : Nat) (b : Byte) : (s.storageWrite slot b).cfg = s.cfg := rfl
@[simp] theorem State.storageWrite_devices (s : State) (slot : Nat) (b : Byte) : (s.storageWrite slot b).devices = s.devices := rfl
@[simp] theorem State.storageWrite_registry (s : State) (slot : Nat) (b : Byte) : (s.storageWrite slot b).registry = s.registry := rfl
@[simp] theorem State.storageWrite_pending (s : State) (slot : Nat) (b : Byte) : (s.storageWrite slot b).pending = s.pending := rfl
@[simp] theorem State.storageWrite_storage (s : State) (slot : Nat) (b : Byte) : (s.storageWrite slot b).storage = s.storage.write slot b := rfl
@[simp] theorem State.storageWrite_inputs (s : State) (slot : Nat) (b : Byte) : (s.storageWrite slot b).inputs = s.inputs := rfl
@[simp] theorem State.storageWrite_envs (s : State) (slot : Nat) (b : Byte) : (s.storageWrite slot b).envs = s.envs := rfl
@[simp] theorem State.storageWrite_drawn (s : State) (slot : Nat) (b : Byte) : (s.storageWrite slot b).drawn = s.drawn := rfl
@[simp] theorem State.storageWrite_blocked (s : State) (slot : Nat) (b : Byte) : (s.storageWrite slot b).blocked = s.blocked := rfl
@[simp] theorem State.storageWrite_hostResult (s : State) (slot : Nat) (b : Byte) : (s.storageWrite slot b).hostResult = s.hostResult := rfl
@[simp] theorem State.storageWrite_trace (s : State) (slot : Nat) (b : Byte) : (s.storageWrite slot b).trace = s.trace ++ [.storageWrite slot b] := rfl

/-! ### hostDeactivate -/

@[simp] theorem State.hostDeactivate_cfg (s : State) (d : Nat) (x : Bool) : (s.hostDeactivate d x).cfg = s.cfg := by
  cases x <;> rfl
@[simp] theorem State.hostDeactivate_devices (s : State) (d : Nat) (x : Bool) : (s.hostDeactivate d x).devices = (if x then s.devices.modify d (fun dev => { dev with active := false }) else s.devices) := by
  cases x <;> rfl
@[simp] theorem State.hostDeactivate_registry (s : State) (d : Nat) (x : Bool) : (s.hostDeactivate d x).registry = s.registry := by
  cases x <;> rfl
@[simp] theorem State.hostDeactivate_pending (s : State) (d : Nat) (x : Bool) : (s.hostDeactivate d x).pending = s.pending := by
  cases x <;> rfl
@[simp] theorem State.hostDeactivate_storage (s : State) (d : Nat) (x : Bool) : (s.hostDeactivate d x).storage = s.storage := by
  cases x <;> rfl
@[simp] theorem State.hostDeactivate_inputs (s : State) (d : Nat) (x : Bool) : (s.hostDeactivate d x).inputs = s.inputs := by
  cases x <;> rfl
@[simp] theorem State.hostDeactivate_envs (s : State) (d : Nat) (x : Bool) : (s.hostDeactivate d x).envs = s.envs := by
  cases x <;> rfl
@[simp] theorem State.hostDeactivate_drawn (s : State) (d : Nat) (x : Bool) : (s.hostDeactivate d x).drawn = s.drawn := by
  cases x <;> rfl
@[simp] theorem State.hostDeactivate_blocked (s : State) (d : Nat) (x : Bool) : (s.hostDeactivate d x).blocked = s.blocked := by
  cases x <;> rfl
@[simp] theorem State.hostDeactivate_hostResult (s : State) (d : Nat) (x : Bool) : (s.hostDeactivate d x).hostResult = s.hostResult := by
  cases x <;> rfl
@[simp] theorem State.hostDeactivate_trace (s : State) (d : Nat) (x : Bool) : (s.hostDeactivate d x).trace = s.trace := by
  cases x <;> rfl

/-! ### drain -/

@[simp] theorem State.drain_cfg (s : State) (e : Env) : (s.drain e).cfg = s.cfg := by
  unfold State.drain; cases e.framing <;> cases s.cfg.cancelCmdRetained <;> rfl
@[simp] theorem State.drain_devices (s : State) (e : Env) : (s.drain e).devices = s.devices := by
  unfold State.drain; cases e.framing <;> cases s.cfg.cancelCmdRetained <;> rfl
@[simp] theorem State.drain_registry (s : State) (e : Env) : (s.drain e).registry = s.registry := by
  unfold State.drain; cases e.framing <;> cases s.cfg.cancelCmdRetained <;> rfl
@[simp] theorem State.drain_pending (s : State) (e : Env) : (s.drain e).pending = pendingAfter s e := by
  unfold State.drain; cases e.framing <;> cases h : s.cfg.cancelCmdRetained <;> simp [pendingAfter, h]
@[simp] theorem State.drain_storage (s : State) (e : Env) : (s.drain e).storage = s.storage := by
  unfold State.drain; cases e.framing <;> cases s.cfg.cancelCmdRetained <;> rfl
@[simp] theorem State.drain_inputs (s : State) (e : Env) : (s.drain e).inputs = s.inputs := by
  unfold State.drain; cases e.framing <;> cases s.cfg.cancelCmdRetained <;> rfl
@[simp] theorem State.drain_envs (s : State) (e : Env) : (s.drain e).envs = s.envs := by
  unfold State.drain; cases e.framing <;> cases s.cfg.cancelCmdRetained <;> rfl
@[simp] theorem State.drain_drawn (s : State) (e : Env) : (s.drain e).drawn = s.drawn := by
  unfold State.drain; cases e.framing <;> cases s.cfg.cancelCmdRetained <;> rfl
@[simp] theorem State.drain_blocked (s : State) (e : Env) : (s.drain e).blocked = s.blocked := by
  unfold State.drain; cases e.framing <;> cases s.cfg.cancelCmdRetained <;> rfl
@[simp] theorem State.drain_hostResult (s : State) (e : Env) : (s.drain e).hostResult = s.hostResult := by
  unfold State.drain; cases e.framing <;> cases s.cfg.cancelCmdRetained <;> rfl
@[simp] theorem State.drain_trace (s : State) (e : Env) : (s.drain e).trace = s.trace ++ drainEffects e := by
  unfold State.drain; cases h : e.framing <;> cases s.cfg.cancelCmdRetained <;> simp [drainEffects, h]

/-! ### cancel -/

@[simp] theorem State.cancel_cfg (s : State) (d : Nat) : (s.cancel d).cfg = s.cfg := rfl
@[simp] theorem State.cancel_devices (s : State) (d : Nat) : (s.cancel d).devices = (s.devices.modify d (fun dev => { dev with lines := emptyLines s.cfg })).modify d Device.finished := rfl
@[simp] theorem State.cancel_registry (s : State) (d : Nat) : (s.cancel d).registry = s.registry := rfl
@[simp] theorem State.cancel_pending (s : State) (d : Nat) : (s.cancel d).pending = s.pending := rfl
@[simp] theorem State.cancel_storage (s : State) (d : Nat) : (s.cancel d).storage = s.storage := rfl
@[simp] theorem State.cancel_inputs (s : State) (d : Nat) : (s.cancel d).inputs = s.inputs := rfl
@[simp] theorem State.cancel_envs (s : State) (d : Nat) : (s.cancel d).envs = s.envs := rfl
@[simp] theorem State.cancel_drawn (s : State) (d : Nat) : (s.cancel d).drawn = s.drawn := rfl
@[simp] theorem State.cancel_blocked (s : State) (d : Nat) : (s.cancel d).blocked = s.blocked := rfl
@[simp] theorem State.cancel_hostResult (s : State) (d : Nat) : (s.cancel d).hostResult = s.hostResult := rfl
@[simp] theorem State.cancel_trace (s : State) (d : Nat) : (s.cancel d).trace = s.trace ++ [.forceListen] := rfl

/-! ### Reading a device -/

theorem State.dev_eq (s : State) (d : Nat) (dev : Device) (h : s.devices[d]? = some dev) : s.dev d = dev := by
  simp [State.dev, List.getD, h]

theorem State.dev_congr (s t : State) (h : t.devices = s.devices) (d : Nat) : t.dev d = s.dev d := by
  simp [State.dev, h]

/-- Two writes of one device are one write. -/
@[simp] theorem devices_modify_modify (l : List Device) (d : Nat) (f g : Device → Device) :
    (l.modify d f).modify d g = l.modify d (fun dev => g (f dev)) := by
  apply List.ext_getElem?
  intro k
  simp only [List.getElem?_modify]
  split <;> simp [Function.comp_def]

/-- A write after a write of the whole device. -/
@[simp] theorem devices_set_modify (l : List Device) (d : Nat) (v : Device) (f : Device → Device) :
    (l.set d v).modify d f = l.set d (f v) := by
  apply List.ext_getElem?
  intro k
  simp only [List.getElem?_modify, List.getElem?_set]
  by_cases hk : d = k
  · subst hk
    by_cases hl : d < l.length <;> simp [hl]
  · simp [hk]

/-- A write of a device whose registers are known. -/
theorem devices_modify_eq_set (l : List Device) (d : Nat) (f : Device → Device) (dev : Device)
    (h : l[d]? = some dev) : l.modify d f = l.set d (f dev) := by
  apply List.ext_getElem?
  intro k
  simp only [List.getElem?_modify, List.getElem?_set]
  by_cases hk : d = k
  · subst hk
    obtain ⟨hlt, rfl⟩ := List.getElem?_eq_some_iff.mp h
    simp [hlt]
  · simp [hk]

/-- A device read after a write of device `d`. -/
theorem State.updateDev_dev (s : State) (d : Nat) (f : Device → Device) (dev : Device)
    (h : s.devices[d]? = some dev) : (s.updateDev d f).dev d = f dev := by
  apply State.dev_eq
  simp [h]

end Sys2Proof.Machine
end

