-- ==== Sys2Proof/Laws/Dispatch.lean ====
section
/-! SUPPORT. What the dispatch loop of 42_commands_basic.md R161 can do, once for every cycle: it keeps what every cycle
keeps, it leaves an unaddressed command without effect, it runs one device's cycle when one device takes the command, and
it serves every device that takes it in index order. -/

namespace Sys2Proof.Machine

theorem State.answers_eq (s : State) (a : Byte) (d : Nat) (dev : Device) (h : s.devices[d]? = some dev) :
    s.answers a d = (!s.blocked && dev.takes a) := by
  simp [State.answers, h, Device.takes, Bool.and_assoc]

theorem State.answers_none (s : State) (a : Byte) (d : Nat) (h : s.devices[d]? = none) : s.answers a d = false := by
  simp [State.answers, h]

theorem State.answers_blocked (s : State) (a : Byte) (d : Nat) (h : s.blocked = true) : s.answers a d = false := by
  unfold State.answers; split <;> simp [h]

/-- A device that answers exists, matches, is in Ready, and nothing holds the engine. -/
theorem State.answers_inv {s : State} {a : Byte} {d : Nat} (h : s.answers a d = true) :
    s.blocked = false ∧ ∃ dev, s.devices[d]? = some dev ∧ dev.matches a = true ∧ dev.state = .ready := by
  unfold State.answers at h
  split at h
  · rename_i dev hd
    simp at h
    exact ⟨h.1.1, dev, hd, h.1.2, h.2⟩
  · cases h

theorem visit_cons (a : Byte) (act : Nat → State → Out) (d : Nat) (ds : List Nat) (s : State) :
    visit a act (d :: ds) s =
      if s.answers a d then
        match act d s with
        | .next t => visit a act ds t
        | .fault r => .fault r
        | .refused r => .refused r
      else visit a act ds s := rfl

/-- Nobody answers: the command has no effect. -/
theorem visit_ignored (a : Byte) (act : Nat → State → Out) (ds : List Nat) (s : State)
    (h : ∀ d ∈ ds, s.answers a d = false) : visit a act ds s = .next s := by
  induction ds with
  | nil => rfl
  | cons d ds ih =>
    rw [visit_cons, if_neg (by simp [h d])]
    exact ih fun k hk => h k (List.mem_cons_of_mem _ hk)

/-- A blocked engine dispatches nothing. -/
theorem visit_blocked (a : Byte) (act : Nat → State → Out) (ds : List Nat) (s : State) (h : s.blocked = true) :
    visit a act ds s = .next s :=
  visit_ignored a act ds s fun d _ => s.answers_blocked a d h

/-- What every answering device's cycle keeps, the loop keeps. -/
theorem visit_keeps {a : Byte} {act : Nat → State → Out} (P : State → Prop)
    (hact : ∀ d u v, P u → u.answers a d = true → act d u = .next v → P v) :
    ∀ (ds : List Nat) (s t : State), P s → visit a act ds s = .next t → P t := by
  intro ds
  induction ds with
  | nil => intro s t hs h; cases h; exact hs
  | cons d ds ih =>
    intro s t hs h
    rw [visit_cons] at h
    split at h
    · rename_i hans
      split at h
      · rename_i v hv
        exact ih v t (hact d s v hs hans hv) h
      · cases h
      · cases h
    · exact ih s t hs h

/-- If every answering device's cycle has a next state and keeps `P`, the loop has a next state that keeps it. -/
theorem visit_total {a : Byte} {act : Nat → State → Out} (P : State → Prop)
    (hact : ∀ d u, P u → u.answers a d = true → ∃ v, act d u = .next v ∧ P v) :
    ∀ (ds : List Nat) (s : State), P s → ∃ t, visit a act ds s = .next t ∧ P t := by
  intro ds
  induction ds with
  | nil => intro s hs; exact ⟨s, rfl, hs⟩
  | cons d ds ih =>
    intro s hs
    rw [visit_cons]
    split
    · rename_i hans
      obtain ⟨v, hv, hp⟩ := hact d s hs hans
      rw [hv]
      exact ih v hp
    · exact ih s hs

/-- Exactly one device number of the list answers, and its cycle touches no other device: the loop is that cycle. -/
theorem visit_single {a : Byte} {act : Nat → State → Out} {s : State} {d : Nat} {ds : List Nat}
    (hnd : ds.Nodup) (hmem : d ∈ ds) (hans : s.answers a d = true)
    (halone : ∀ k, k ≠ d → s.answers a k = false)
    (hact : ∀ t, act d s = .next t → ∀ k, k ≠ d → t.answers a k = false) :
    visit a act ds s = act d s := by
  induction ds with
  | nil => cases hmem
  | cons k ds ih =>
    rw [visit_cons]
    by_cases hk : k = d
    · subst hk
      rw [if_pos hans]
      cases h : act k s with
      | next t =>
        refine visit_ignored a act ds t fun j hj => hact t h j ?_
        rintro rfl
        exact (List.nodup_cons.mp hnd).1 hj
      | fault r => rfl
      | refused r => rfl
    · rw [if_neg (by simp [halone k hk])]
      exact ih (List.nodup_cons.mp hnd).2 ((List.mem_cons.mp hmem).resolve_left (Ne.symm hk))

/-! ### Nothing claimed -/

theorem State.claimed_iff (s : State) :
    s.claimed = false ↔ (∀ dev ∈ s.devices, dev.active = false) ∧ s.registry = none := by
  simp [State.claimed, State.anyActive]

theorem begin_unclaimed {crc : Bool} {cycle : Nat → State → Out} {d : Nat} {s : State} (h : s.claimed = false) :
    begin crc cycle d s = cycle d (s.activate d crc) := by
  simp [begin, h]

theorem begin_claimed {crc : Bool} {cycle : Nat → State → Out} {d : Nat} {s : State} (h : s.claimed = true) :
    begin crc cycle d s = .fault (.contractViolation d) := by
  simp [begin, h]

/-! ### One device served -/

theorem Served.answers {s : State} {a : Byte} {d : Nat} {dev : Device} (h : Served s a d dev) :
    s.answers a d = true := by
  rw [s.answers_eq a d dev h.here, h.opened.running, h.takes]; rfl

theorem Served.alone_answers {s : State} {a : Byte} {d : Nat} {dev : Device} (h : Served s a d dev) (k : Nat)
    (hk : k ≠ d) : s.answers a k = false := by
  cases hd : s.devices[k]? with
  | none => exact s.answers_none a k hd
  | some other => rw [s.answers_eq a k other hd, h.alone k other hk hd]; simp

/-- The loop is the served device's cycle, if that cycle touches no other device. -/
theorem dispatch_served {s : State} {a : Byte} {d : Nat} {dev : Device} {crc : Bool} {cycle : Nat → State → Out}
    (h : Served s a d dev)
    (hcycle : ∀ t, cycle d (s.activate d crc) = .next t → ∀ k, k ≠ d → t.devices[k]? = s.devices[k]?) :
    dispatch a crc cycle s = cycle d (s.activate d crc) := by
  have hlt := (List.getElem?_eq_some_iff.mp h.here).1
  unfold dispatch
  rw [visit_single (d := d) List.nodup_range (List.mem_range.mpr hlt) h.answers h.alone_answers,
    begin_unclaimed h.opened.unclaimed]
  intro t ht k hk
  rw [begin_unclaimed h.opened.unclaimed] at ht
  have hdev := hcycle t ht k hk
  cases hd : s.devices[k]? with
  | none => exact t.answers_none a k (hdev.trans hd)
  | some other => rw [t.answers_eq a k other (hdev.trans hd), h.alone k other hk hd]; simp

/-! ### Every device that takes the command answers at once -/

/-- The loop over the devices `post`, the earlier ones already served: registers `f`, effects `eff`, storage `upd`. -/
theorem visit_answered (a : Byte) (act : Nat → State → Out) (f : Device → Device) (eff : Device → List Effect)
    (upd : Device → Memory → Memory) (s : State) (P : State → Prop) (hP : ∀ u, P u → u.blocked = false)
    (hact : ∀ (d : Nat) (u : State) (dev : Device), P u → u.cfg = s.cfg → u.devices[d]? = some dev →
      dev.takes a = true →
      act d u = .next { u with devices := u.devices.set d (f dev), trace := u.trace ++ eff dev,
                               storage := upd dev u.storage } ∧
      P { u with devices := u.devices.set d (f dev), trace := u.trace ++ eff dev, storage := upd dev u.storage }) :
    ∀ (post pre : List Device) (tr : List Effect) (m : Memory),
      P { s with devices := pre ++ post, trace := tr, storage := m } →
      visit a act (List.range' pre.length post.length) { s with devices := pre ++ post, trace := tr, storage := m } =
        .next { s with
          devices := pre ++ post.map (fun dev => if dev.takes a then f dev else dev)
          trace := tr ++ post.flatMap (fun dev => if dev.takes a then eff dev else [])
          storage := post.foldl (fun m dev => if dev.takes a then upd dev m else m) m } := by
  intro post
  induction post with
  | nil => intro pre tr m hp; simp [visit]
  | cons dev post ih =>
    intro pre tr m hp
    have hget : (pre ++ dev :: post)[pre.length]? = some dev := by simp
    have hans : State.answers { s with devices := pre ++ dev :: post, trace := tr, storage := m } a pre.length =
        dev.takes a := by
      rw [State.answers_eq _ a pre.length dev hget, hP _ hp]; simp
    simp only [List.length_cons, List.range'_succ, visit_cons, hans]
    by_cases ht : dev.takes a = true
    · obtain ⟨h1, h2⟩ := hact pre.length _ dev hp rfl hget ht
      have hset : (pre ++ dev :: post).set pre.length (f dev) = (pre ++ [f dev]) ++ post := by simp
      simp only [ht, if_true, h1]
      simp only [hset] at h2 ⊢
      have := ih (pre ++ [f dev]) (tr ++ eff dev) (upd dev m) h2
      simp only [List.length_append, List.length_cons, List.length_nil, Nat.zero_add] at this
      rw [this]
      simp [ht]
    · have ht' : dev.takes a = false := by simpa using ht
      have hp' : P { s with devices := (pre ++ [dev]) ++ post, trace := tr, storage := m } := by simpa using hp
      have := ih (pre ++ [dev]) tr m hp'
      simp only [List.length_append, List.length_cons, List.length_nil, Nat.zero_add, List.append_assoc,
        List.cons_append, List.nil_append] at this
      simp [ht', this]

/-- An open state stays open when a device is written that is not active. -/
theorem State.Open.set {u : State} (hu : u.Open) (d : Nat) (v : Device) (hv : v.active = false) (tr : List Effect)
    (m : Memory) : State.Open { u with devices := u.devices.set d v, trace := tr, storage := m } := by
  have hc := u.claimed_iff.mp hu.unclaimed
  refine ⟨hu.running, (State.claimed_iff _).mpr ⟨fun w hw => ?_, hc.2⟩⟩
  rcases List.mem_or_eq_of_mem_set hw with hw | rfl
  · exact hc.1 w hw
  · exact hv

/-- A command answered at once, from an open state: every device that takes it answers, in index order. -/
theorem dispatch_answered_storing {a : Byte} {crc : Bool} {cycle : Nat → State → Out} {f : Device → Device}
    {eff : Device → List Effect} {upd : Device → Memory → Memory} {s : State} (hs : s.Open)
    (hf : ∀ dev, (f dev).active = false)
    (hcycle : ∀ (d : Nat) (u : State) (dev : Device), u.cfg = s.cfg → u.devices[d]? = some dev →
      dev.takes a = true → u.registry = none →
      cycle d (u.activate d crc) =
        .next { u with devices := u.devices.set d (f dev), trace := u.trace ++ eff dev,
                       storage := upd dev u.storage }) :
    dispatch a crc cycle s = .next { s.answered a f eff with
      storage := s.devices.foldl (fun m dev => if dev.takes a then upd dev m else m) s.storage } := by
  have key := visit_answered a (begin crc cycle) f eff upd s State.Open (fun u hu => hu.running)
    (fun d u dev hu hcfg hget ht => by
      have hreg := (u.claimed_iff.mp hu.unclaimed).2
      exact ⟨by rw [begin_unclaimed hu.unclaimed]; exact hcycle d u dev hcfg hget ht hreg,
        hu.set d (f dev) (hf dev) _ _⟩)
    s.devices [] s.trace s.storage hs
  simpa [dispatch, List.range_eq_range', State.answered] using key

/-- The same for a command that writes no storage. -/
theorem dispatch_answered {a : Byte} {crc : Bool} {cycle : Nat → State → Out} {f : Device → Device}
    {eff : Device → List Effect} {s : State} (hs : s.Open) (hf : ∀ dev, (f dev).active = false)
    (hcycle : ∀ (d : Nat) (u : State) (dev : Device), u.cfg = s.cfg → u.devices[d]? = some dev →
      dev.takes a = true → u.registry = none →
      cycle d (u.activate d crc) = .next { u with devices := u.devices.set d (f dev), trace := u.trace ++ eff dev }) :
    dispatch a crc cycle s = .next (s.answered a f eff) := by
  rw [dispatch_answered_storing (upd := fun _ m => m) hs hf hcycle]
  simp [State.answered]

/-- UNKNOWN (R172): the loop without the one-active check. -/
theorem execUnknown_answered {a : Byte} {s : State} (hs : s.blocked = false) :
    execUnknown a s = .next (s.answered a (fun dev => dev) (fun dev => plainReply dev s.cfg.rejectPayload)) := by
  have key := visit_answered a (fun d t => .next (t.reject d)) (fun dev => dev)
    (fun dev => plainReply dev s.cfg.rejectPayload) (fun _ m => m) s (fun u => u.blocked = false) (fun u hu => hu)
    (fun d u dev hu hcfg hget ht => by
      refine ⟨?_, hu⟩
      have hlt := (List.getElem?_eq_some_iff.mp hget)
      simp [State.reject, State.reply, State.emit, asciiReply, u.dev_eq d dev hget, plainReply, hcfg, ← hlt.2])
    s.devices [] s.trace s.storage hs
  simpa [execUnknown, List.range_eq_range', State.answered] using key

end Sys2Proof.Machine
end

