-- ==== Sys2Proof/Laws/Cycles.lean ====
section
/-! SUPPORT. What one device's cycle does, once per cycle: the state a cycle answered at once leaves, and every way an
acquisition (43_commands_measurement.md R190) can end. -/

namespace Sys2Proof.Machine

/-! ### Replies of a known device -/

theorem asciiReply_plain (dev : Device) (payload : Bytes) :
    asciiReply dev payload false = dev.address :: (payload ++ crlf) := by
  simp [asciiReply]

/-- A reply with a checksum offered, to a record with qualifier `q` (R82). -/
theorem asciiReply_data (dev : Device) (payload : Bytes) (q : Qualifier) (h : dev.crcRequested = crcq q) :
    [Effect.send (asciiReply dev payload true), .forceListen] = dataReply dev payload q := by
  cases q <;> simp [asciiReply, h, crcq, dataReply, plainReply]

/-- The device a dispatch has claimed (R161). -/
theorem State.activate_dev (u : State) (d : Nat) (crc : Bool) (dev : Device) (h : u.devices[d]? = some dev) :
    (u.activate d crc).dev d = dev.activated crc := by
  apply State.dev_eq; simp [h]

theorem Device.takes_ready {dev : Device} {a : Byte} (h : dev.takes a = true) : dev.state = .ready := by
  simp [Device.takes] at h; exact h.2

/-! ### Cycles answered at once -/

theorem addressCycle_run {u : State} {d : Nat} {dev : Device} (crc : Bool) (h : u.devices[d]? = some dev)
    (hr : u.registry = none) :
    addressCycle d (u.activate d crc) =
      .next { u with devices := u.devices.set d (dev.cycled crc), trace := u.trace ++ plainReply dev [] } := by
  simp only [addressCycle, Host.Outcome.next.injEq]
  ext1 <;> simp [devices_modify_eq_set _ _ _ _ h, State.activate_dev _ _ _ _ h, asciiReply, plainReply, hr,
    Device.finished, Device.activated, Device.cycled]

theorem identCycle_run {u : State} {d : Nat} {dev : Device} (crc : Bool) (h : u.devices[d]? = some dev)
    (hr : u.registry = none) :
    identCycle d (u.activate d crc) =
      .next { u with devices := u.devices.set d (dev.cycled crc),
                     trace := u.trace ++ plainReply dev u.cfg.identString } := by
  simp only [identCycle, Host.Outcome.next.injEq]
  ext1 <;> simp [devices_modify_eq_set _ _ _ _ h, State.activate_dev _ _ _ _ h, asciiReply, plainReply, hr,
    Device.finished, Device.activated, Device.cycled]

theorem dataCycle_run {u : State} {d : Nat} {dev : Device} (q : Qualifier) (p : BitVec 16)
    (h : u.devices[d]? = some dev) (hr : u.registry = none) :
    dataCycle p d (u.activate d (crcq q)) =
      .next { u with devices := u.devices.set d (dev.cycled (crcq q)),
                     trace := u.trace ++ dataReply dev (slotOperand u.cfg.lineSlots dev.lines p) q } := by
  simp only [dataCycle, Host.Outcome.next.injEq]
  ext1 <;> cases q <;> simp [devices_modify_eq_set _ _ _ _ h, State.activate_dev _ _ _ _ h, asciiReply, plainReply,
    dataReply, hr, Device.finished, Device.activated, Device.cycled, crcq]

theorem byteDataCycle_run {u : State} {d : Nat} {dev : Device} (crc : Bool)
    (h : u.devices[d]? = some dev) (hr : u.registry = none) :
    byteDataCycle d (u.activate d crc) =
      .next { u with devices := u.devices.set d (dev.cycled crc),
                     trace := u.trace ++ [.send (byteFrame (dev.activated crc)), .forceListen] } := by
  simp only [byteDataCycle, Host.Outcome.next.injEq]
  ext1 <;> simp [devices_modify_eq_set _ _ _ _ h, State.activate_dev _ _ _ _ h, hr, Device.finished,
    Device.activated, Device.cycled]

theorem continuousProbeCycle_run {u : State} {d : Nat} {dev : Device} (crc : Bool)
    (h : u.devices[d]? = some dev) (hr : u.registry = none) :
    continuousProbeCycle d (u.activate d crc) =
      .next { u with devices := u.devices.set d (dev.cycled crc),
                     trace := u.trace ++ plainReply dev u.cfg.contProbeToken } := by
  simp only [continuousProbeCycle, Host.Outcome.next.injEq]
  ext1 <;> simp [devices_modify_eq_set _ _ _ _ h, State.setDevState, asciiReply, plainReply, hr,
    Device.finished, Device.activated, Device.cycled, State.dev, List.getD, (List.getElem?_eq_some_iff.mp h).1]

/-! ### The synchronous part of a measurement-class cycle -/

/-- The registers of a device inside a measurement-class cycle, after its synchronous reply (R190 steps 1 to 4). -/
def Device.measuring (dev : Device) (st : DevState) (crc : Bool) : Device :=
  { dev with active := true, state := st, crcRequested := crc }

/-- The token of the synchronous reply (R190 step 3). -/
def MClass.token (m : MClass) (param1 : BitVec 16) : Bytes := if supportedIndex param1 then m.tokOk else m.tokBad

theorem MClass.synchronous_run (m : MClass) (p : BitVec 16) {u : State} {d : Nat} {dev : Device} (crc : Bool)
    (h : u.devices[d]? = some dev) :
    m.synchronous p d (u.activate d crc) =
      { u with devices := u.devices.set d (dev.measuring m.st crc), registry := none,
               trace := u.trace ++ [.send (dev.address :: (m.token p ++ crlf))] } := by
  have hlt := (List.getElem?_eq_some_iff.mp h).1
  ext1 <;> simp [MClass.synchronous, devices_modify_eq_set _ _ _ _ h, asciiReply, Device.activated, Device.measuring,
    MClass.token, State.dev, List.getD, hlt]

theorem MClass.probe_run (m : MClass) (p : BitVec 16) {u : State} {d : Nat} {dev : Device} (crc : Bool)
    (h : u.devices[d]? = some dev) (hr : u.registry = none) :
    m.probe p d (u.activate d crc) =
      .next { u with devices := u.devices.set d (dev.cycled crc), trace := u.trace ++ plainReply dev (m.token p) } := by
  simp only [MClass.probe, m.synchronous_run p crc h, Host.Outcome.next.injEq]
  ext1 <;> simp [Device.finished, Device.measuring, Device.cycled, plainReply, hr]

/-- An unsupported measurement-set index (R194). -/
theorem MClass.measure_unsupported (m : MClass) (p : BitVec 16) {u : State} {d : Nat} {dev : Device} (crc : Bool)
    (h : u.devices[d]? = some dev) (hr : u.registry = none) (hp : supportedIndex p = false) :
    m.measure p d (u.activate d crc) =
      .next { u with devices := u.devices.set d { dev.cycled crc with lines := emptyLines u.cfg },
                     trace := u.trace ++ plainReply dev m.tokBad } := by
  simp only [MClass.measure, m.synchronous_run p crc h, hp, Bool.false_eq_true, if_false, Host.Outcome.next.injEq]
  ext1 <;> simp [Device.finished, Device.measuring, Device.cycled, plainReply, hr, MClass.token, hp]

theorem verifyReply_run {u : State} {d : Nat} {dev : Device} (crc : Bool) (h : u.devices[d]? = some dev) :
    verifyReply d (u.activate d crc) =
      { u with devices := u.devices.set d (dev.measuring .verify crc), registry := none,
               trace := u.trace ++ [.send (dev.address :: (tokZero4 ++ crlf))] } := by
  have hlt := (List.getElem?_eq_some_iff.mp h).1
  ext1 <;> simp [verifyReply, devices_modify_eq_set _ _ _ _ h, asciiReply, Device.activated, Device.measuring,
    State.dev, List.getD, hlt]

theorem verifyCycle_run {u : State} {d : Nat} {dev : Device} (crc : Bool)
    (h : u.devices[d]? = some dev) (hr : u.registry = none) :
    verifyCycle d (u.activate d crc) =
      .next { u with devices := u.devices.set d { dev.cycled crc with lines := emptyLines u.cfg },
                     trace := u.trace ++ plainReply dev tokZero4 } := by
  simp only [verifyCycle, verifyReply_run crc h, Host.Outcome.next.injEq]
  ext1 <;> simp [Device.finished, Device.measuring, Device.cycled, plainReply, hr]

theorem verifyProbeCycle_run {u : State} {d : Nat} {dev : Device} (crc : Bool)
    (h : u.devices[d]? = some dev) (hr : u.registry = none) :
    verifyProbeCycle d (u.activate d crc) =
      .next { u with devices := u.devices.set d (dev.cycled crc), trace := u.trace ++ plainReply dev tokZero4 } := by
  simp only [verifyProbeCycle, verifyReply_run crc h, Host.Outcome.next.injEq]
  ext1 <;> simp [Device.finished, Device.measuring, Device.cycled, plainReply, hr]

/-! ### The acquisition -/

/-- The cancel test of R238 for a device that is active when the window opens. -/
def cancelTest (mode : Mode) (e : Env) (dev : Device) : Bool :=
  match mode with
  | .hold => e.lb || e.deact
  | .release => e.newcmds.any (fun w => dev.matches (Record.address w))

/-- The effects of the acquisition window up to and including the checkpoint (R190, R238). -/
def windowEffects (mode : Mode) (e : Env) : List Effect :=
  [.delay, .poll] ++ drainEffects e ++ (match mode with | .hold => if e.lb then [.clearLineBreak] else [] | .release => [])

/-- The state at the checkpoint of an acquisition whose Poll returned. -/
theorem checkpoint_run (mode : Mode) {u : State} {d : Nat} {dev : Device}
    (h : u.devices[d]? = some dev) (ha : dev.active = true) :
    ((((u.emit .delay).emit .poll).drawEnv).hostDeactivate d u.nextEnv.deact).checkpoint d mode u.nextEnv =
      ({ u with devices := u.devices.set d { dev with active := !u.nextEnv.deact },
                pending := pendingAfter u u.nextEnv, envs := u.envs.tail, drawn := u.drawn + 1,
                trace := u.trace ++ windowEffects mode u.nextEnv },
        cancelTest mode u.nextEnv dev) := by
  obtain ⟨hlt, hget⟩ := List.getElem?_eq_some_iff.mp h
  have hself : u.devices.set d { dev with active := true } = u.devices := by
    rw [show ({ dev with active := true } : Device) = dev by rw [← ha], ← hget]
    exact List.set_getElem_self hlt
  generalize u.nextEnv = e
  have hdev : ∀ x : Bool, (if x = true then u.devices.modify d (fun v => { v with active := false }) else u.devices) =
      u.devices.set d { dev with active := !x } := by
    intro x
    cases x
    · simpa using hself.symm
    · simpa using devices_modify_eq_set _ _ _ _ h
  have hread : (((((u.emit .delay).emit .poll).drawEnv).hostDeactivate d e.deact).drain e).dev d =
      { dev with active := !e.deact } := by
    apply State.dev_eq
    simp [hdev, hlt]
  cases mode <;> simp only [State.checkpoint, hread, cancelTest, Prod.mk.injEq]
  · refine ⟨?_, by simp⟩
    ext1 <;> cases hl : e.lb <;> simp [hdev, pendingAfter, windowEffects, hl]
  · refine ⟨?_, by simp [Device.matches]⟩
    ext1 <;> simp [hdev, pendingAfter, windowEffects]

/-- Every way an acquisition ends (R190 steps 7 to 11, R240, R255, R146). -/
theorem acquire_run (mode : Mode) (produce : Config → Values → Option (List Bytes)) {u : State} {d : Nat}
    {dev : Device} (h : u.devices[d]? = some dev) (ha : dev.active = true) :
    acquire mode produce d u =
      match u.nextEnv.vals with
      | none => .next { u with envs := u.envs.tail, drawn := u.drawn + 1, blocked := true,
                               trace := u.trace ++ [.delay, .poll] }
      | some vals =>
        if cancelTest mode u.nextEnv dev then
          .next { u with devices := u.devices.set d { dev with active := false, state := .ready, lines := emptyLines u.cfg },
                         pending := pendingAfter u u.nextEnv, envs := u.envs.tail, drawn := u.drawn + 1,
                         trace := u.trace ++ windowEffects mode u.nextEnv ++ [.forceListen] }
        else
          match produce u.cfg vals with
          | some ls =>
            .next { u with devices := u.devices.set d { dev with active := false, state := .ready, lines := ls },
                           pending := pendingAfter u u.nextEnv, envs := u.envs.tail, drawn := u.drawn + 1,
                           trace := u.trace ++ windowEffects mode u.nextEnv ++
                             (match mode with
                              | .hold => [.send (dev.address :: crlf), .forceListen]
                              | .release => [.forceListen]) }
          | none => .refused (.lineSlotsExhausted d) := by
  have hlt := (List.getElem?_eq_some_iff.mp h).1
  unfold acquire
  simp only [checkpoint_run mode h ha]
  cases hv : u.nextEnv.vals with
  | none => simp only [Host.Outcome.next.injEq]; ext1 <;> simp
  | some vals =>
    simp only
    split
    · simp only [Host.Outcome.next.injEq]
      ext1 <;> simp [Device.finished]
    · cases produce u.cfg vals with
      | none => rfl
      | some ls =>
        simp only [Host.Outcome.next.injEq]
        cases mode <;> ext1 <;>
          simp [State.deliver, Device.finished, asciiReply, State.dev, List.getD, hlt]

/-- Every way the cycle of a measurement-class verb with a supported index ends (R190). -/
theorem MClass.measure_run (m : MClass) (p : BitVec 16) {u : State} {d : Nat} {dev : Device} (crc : Bool)
    (h : u.devices[d]? = some dev) (hp : supportedIndex p = true) :
    m.measure p d (u.activate d crc) =
      match u.nextEnv.vals with
      | none => .next { u with
          devices := u.devices.set d (dev.measuring m.st crc), registry := none,
          envs := u.envs.tail, drawn := u.drawn + 1, blocked := true,
          trace := u.trace ++ [.send (dev.address :: (m.tokOk ++ crlf)), .delay, .poll] }
      | some vals =>
        if cancelTest m.mode u.nextEnv dev then
          .next { u with
            devices := u.devices.set d { dev.cycled crc with lines := emptyLines u.cfg }, registry := none,
            pending := pendingAfter u u.nextEnv, envs := u.envs.tail, drawn := u.drawn + 1,
            trace := u.trace ++ .send (dev.address :: (m.tokOk ++ crlf)) :: windowEffects m.mode u.nextEnv ++
              [.forceListen] }
        else
          match m.produce u.cfg vals with
          | some ls => .next { u with
              devices := u.devices.set d { dev.cycled crc with lines := ls }, registry := none,
              pending := pendingAfter u u.nextEnv, envs := u.envs.tail, drawn := u.drawn + 1,
              trace := u.trace ++ .send (dev.address :: (m.tokOk ++ crlf)) :: windowEffects m.mode u.nextEnv ++
                (match m.mode with
                 | .hold => [.send (dev.address :: crlf), .forceListen]
                 | .release => [.forceListen]) }
          | none => .refused (.lineSlotsExhausted d) := by
  have hlt := (List.getElem?_eq_some_iff.mp h).1
  simp only [MClass.measure, m.synchronous_run p crc h, hp, if_true, MClass.token]
  rw [acquire_run m.mode m.produce (dev := dev.measuring m.st crc) (by simp [hlt]) rfl]
  have henv : State.nextEnv { u with
      devices := u.devices.set d (dev.measuring m.st crc), registry := none,
      trace := u.trace ++ [.send (dev.address :: (m.tokOk ++ crlf))] } = u.nextEnv := rfl
  simp only [henv]
  cases u.nextEnv.vals with
  | none => simp
  | some vals =>
    have hc : cancelTest m.mode u.nextEnv (dev.measuring m.st crc) = cancelTest m.mode u.nextEnv dev := by
      cases m.mode <;> rfl
    simp only [hc]
    split
    · simp [Device.measuring, Device.cycled, pendingAfter]
    · cases m.produce u.cfg vals <;> simp [Device.measuring, Device.cycled, pendingAfter]

/-- Both ways the cycle of CONT ends (R211, R255). -/
theorem continuousCycle_run (p : BitVec 16) (q : Qualifier) {u : State} {d : Nat} {dev : Device}
    (h : u.devices[d]? = some dev) :
    continuousCycle p d (u.activate d (crcq q)) =
      match u.nextEnv.vals with
      | none => .next { u with
          devices := u.devices.set d (dev.measuring .continuous (crcq q)), registry := some d,
          envs := u.envs.tail, drawn := u.drawn + 1, blocked := true, trace := u.trace ++ [.poll] }
      | some vals => .next { u with
          devices := u.devices.set d (dev.cycled (crcq q)), registry := none,
          envs := u.envs.tail, drawn := u.drawn + 1,
          trace := u.trace ++ .poll :: dataReply dev (continuousPayload u.cfg vals p) q } := by
  have hlt := (List.getElem?_eq_some_iff.mp h).1
  have henv : (u.activate d (crcq q)).nextEnv = u.nextEnv := rfl
  simp only [continuousCycle, henv]
  cases u.nextEnv.vals with
  | none =>
    simp only [Host.Outcome.next.injEq]
    ext1 <;> simp [devices_modify_eq_set _ _ _ _ h, Device.activated, Device.measuring]
  | some vals =>
    simp only [Host.Outcome.next.injEq]
    ext1 <;> cases q <;> simp [devices_modify_eq_set _ _ _ _ h, Device.activated, Device.cycled, Device.finished,
      asciiReply, dataReply, plainReply, crcq, State.dev, List.getD, hlt]

/-! ### The address mutation -/

theorem newAddress_accepted (p : BitVec 16) :
    acceptedAddress p = (newAddress p).filter alphanumeric := by
  unfold acceptedAddress newAddress
  by_cases hp : p.toNat < 256 <;> simp [hp, Option.filter]

/-- SetAddress of a device whose registers are known (R167). -/
theorem State.setAddress_run {u : State} {d : Nat} {dev : Device} (b : Byte) (h : u.devices[d]? = some dev) :
    u.setAddress d b =
      if alphanumeric b then
        ({ u with devices := u.devices.set d { dev with address := b }, storage := mirrored dev b u.storage,
                  trace := u.trace ++ mirrorEffects dev b }, true)
      else (u, false) := by
  unfold State.setAddress
  split
  · rw [u.dev_eq d dev h]
    cases hk : dev.storageSlot <;> simp only [Prod.mk.injEq, and_true] <;> ext1 <;>
      simp [devices_modify_eq_set _ _ _ _ h, mirrored, mirrorEffects, hk]
  · rfl

/-- The registers of a device after the cycle of an AddressChange (R166). -/
def Device.readdressed (dev : Device) (p : BitVec 16) : Device :=
  match acceptedAddress p with
  | some b => { dev.cycled false with address := b }
  | none => dev.cycled false

/-- Its effects (R166). -/
def readdressEffects (dev : Device) (p : BitVec 16) : List Effect :=
  match acceptedAddress p with
  | some b => mirrorEffects dev b ++ [.send (b :: crlf), .forceListen]
  | none => plainReply dev []

/-- Storage after it (R166). -/
def readdressStorage (p : BitVec 16) (dev : Device) (m : Memory) : Memory :=
  match acceptedAddress p with
  | some b => mirrored dev b m
  | none => m

theorem addressChangeCycle_run (p : BitVec 16) {u : State} {d : Nat} {dev : Device}
    (h : u.devices[d]? = some dev) (hr : u.registry = none) :
    addressChangeCycle p d (u.activate d false) =
      .next { u with devices := u.devices.set d (dev.readdressed p), trace := u.trace ++ readdressEffects dev p,
                     storage := readdressStorage p dev u.storage } := by
  have hlt := (List.getElem?_eq_some_iff.mp h).1
  have hact : (u.activate d false).devices[d]? = some (dev.activated false) := by simp [h]
  simp only [addressChangeCycle, changeAddress, Host.Outcome.next.injEq, Device.readdressed, readdressEffects,
    readdressStorage, newAddress_accepted]
  cases newAddress p with
  | none =>
    simp only [Option.filter]
    ext1 <;> simp [devices_modify_eq_set _ _ _ _ h, State.activate_dev _ _ _ _ h, asciiReply, plainReply, hr,
      Device.finished, Device.activated, Device.cycled]
  | some b =>
    simp only [State.setAddress_run b hact, Option.filter]
    cases hb : alphanumeric b
    · ext1 <;> simp [devices_modify_eq_set _ _ _ _ h, State.activate_dev _ _ _ _ h, asciiReply, plainReply, hr,
        Device.finished, Device.activated, Device.cycled]
    · ext1 <;> simp [devices_modify_eq_set _ _ _ _ h, asciiReply, hr, Device.finished, Device.activated,
        Device.cycled, State.dev, List.getD, hlt, mirrored, mirrorEffects]

/-! ### Every instruction but UNKNOWN is the dispatch of a cycle -/

/-- The CRC request of a record (R75). -/
def crcOf : Instr → Bool
  | .meas _ q _ _ | .conc _ q _ _ | .hva _ q _ _ | .hvb _ q _ _ | .cont _ q _ _ | .data _ q _ _ | .bdata _ q _ _
  | .verify _ q _ _ => crcq q
  | _ => false

/-- The cycle `EXEC(dev, c)` runs (R161). -/
def cycleOf : Instr → Nat → State → Out
  | .aqry .. | .ack .. | .unknown .. => addressCycle
  | .ident .. => identCycle
  | .identM _ p _ => measurementClass.probe p
  | .identC _ p _ => concurrentClass.probe p
  | .identR .. => continuousProbeCycle
  | .identHA _ p _ => highVolumeAsciiClass.probe p
  | .identHB _ p _ => highVolumeByteClass.probe p
  | .identV .. => verifyProbeCycle
  | .achg _ p _ => addressChangeCycle p
  | .meas _ _ p _ => measurementClass.measure p
  | .conc _ _ p _ => concurrentClass.measure p
  | .hva _ _ p _ => highVolumeAsciiClass.measure p
  | .hvb _ _ p _ => highVolumeByteClass.measure p
  | .cont _ _ p _ => continuousCycle p
  | .data _ _ p _ => dataCycle p
  | .bdata .. => byteDataCycle
  | .verify .. => verifyCycle

/-- An instruction is UNKNOWN, or its execution is the dispatch of its cycle (R161). -/
theorem exec_eq_dispatch (i : Instr) (s : State) :
    (∃ pr se p1 p2, i = .unknown i.address pr se p1 p2) ∨ exec i s = dispatch i.address (crcOf i) (cycleOf i) s := by
  cases i <;> first | exact .inr rfl | exact .inl ⟨_, _, _, _, rfl⟩

end Sys2Proof.Machine
end

