-- ==== Sys2Proof/Laws/Encoding.lean ====
section
/-! SUPPORT. The fields of a record, read back from its word (30_encoding.md R71). -/

namespace Sys2Proof

theorem shift_or_eq_add (k a b : Nat) (hb : b < 2 ^ k) : a * 2 ^ k ||| b = a * 2 ^ k + b := by
  rw [Nat.mul_comm, Nat.two_pow_add_eq_or_of_lt hb]

/-- Every field is read back from the word that holds it. -/
theorem encodeFields_fields (a : Byte) (pr se : BitVec 4) (p1 p2 : BitVec 16) :
    Record.address (encodeFields a pr se p1 p2) = a ∧ Record.primary (encodeFields a pr se p1 p2) = pr ∧
      Record.secondary (encodeFields a pr se p1 p2) = se ∧ Record.param1 (encodeFields a pr se p1 p2) = p1 ∧
      Record.param2 (encodeFields a pr se p1 p2) = p2 := by
  have h : (encodeFields a pr se p1 p2).toNat =
      a.toNat * 2 ^ 40 + pr.toNat * 2 ^ 36 + se.toNat * 2 ^ 32 + p1.toNat * 2 ^ 16 + p2.toNat := by
    simp only [encodeFields, BitVec.toNat_append, Nat.shiftLeft_eq]
    rw [shift_or_eq_add 4 _ _ (by omega), shift_or_eq_add 4 _ _ (by omega), shift_or_eq_add 16 _ _ (by omega),
      shift_or_eq_add 16 _ _ (by omega)]
    omega
  refine ⟨?_, ?_, ?_, ?_, ?_⟩ <;> apply BitVec.eq_of_toNat_eq <;>
    simp only [Record.address, Record.primary, Record.secondary, Record.param1, Record.param2, BitVec.extractLsb'_toNat,
      h, Nat.shiftRight_eq_div_pow] <;> omega

/-- Decoding a word built from fields reads those fields. -/
theorem decode_encodeFields (a : Byte) (pr se : BitVec 4) (p1 p2 : BitVec 16) :
    decode (encodeFields a pr se p1 p2) = decodeFields a pr se p1 p2 := by
  obtain ⟨h1, h2, h3, h4, h5⟩ := encodeFields_fields a pr se p1 p2
  simp only [decode, h1, h2, h3, h4, h5]

end Sys2Proof
end

