-- ==== Sys2Proof/Laws/F64.lean ====
section
/-! SUPPORT. The binary64 primitives on the operands ENCODE gives them: finite ones, and integers. -/

namespace Sys2Proof.Machine

theorem F64.ofNat_eq (n : Nat) : F64.ofNat n = F64.roundMag n 0 := by
  simp [F64.ofNat, F64.ofInt, F64.round, F64.withSign]

theorem F64.toInt_of_nonneg {v : F64} (h : F64.sign v = false) : F64.toInt v = F64.scaled v := by
  simp [F64.toInt, h]

theorem F64.natAbs_toInt (v : F64) : (F64.toInt v).natAbs = F64.scaled v := by
  unfold F64.toInt; split <;> simp

/-- `integerPart` is the absolute value of `trunc`. -/
theorem F64.natAbs_trunc (v : F64) : (F64.trunc v).natAbs = F64.integerPart v := by
  unfold F64.trunc F64.integerPart
  rw [Int.natAbs_tdiv, F64.natAbs_toInt, Int.natAbs_natCast]
  rfl

theorem F64.trunc_of_nonneg {v : F64} (h : F64.sign v = false) : F64.trunc v = F64.integerPart v := by
  unfold F64.trunc F64.integerPart
  rw [F64.toInt_of_nonneg h]
  rfl

/-- A finite value is neither a NaN nor an infinity. -/
theorem F64.finite_class {v : F64} (h : F64.exponent v < 2047) : F64.isNaN v = false ∧ F64.isInf v = false := by
  have : F64.exponent v ≠ 2047 := by omega
  simp [F64.isNaN, F64.isInf, this]

/-- `fsub` of finite operands. -/
theorem F64.sub_of_finite {a b : F64} (ha : F64.exponent a < 2047) (hb : F64.exponent b < 2047) :
    F64.sub a b =
      if F64.toInt a = F64.toInt b then F64.withSign (F64.sign a && !F64.sign b) 0
      else F64.round (F64.toInt a - F64.toInt b) 1074 := by
  simp [F64.sub, F64.finite_class ha, F64.finite_class hb]

/-- `fmul` of finite operands. -/
theorem F64.mul_of_finite {a b : F64} (ha : F64.exponent a < 2047) (hb : F64.exponent b < 2047) :
    F64.mul a b = F64.withSign (F64.sign a != F64.sign b) (F64.roundMag (F64.scaled a * F64.scaled b) 2148) := by
  simp [F64.mul, F64.finite_class ha, F64.finite_class hb]

/-- Free bits make a NaN, whatever they are. -/
theorem F64.isNaN_nanOf (bits : F64) : F64.isNaN (F64.nanOf bits) = true := by
  have he : F64.exponent (F64.nanOf bits) = 2047 := by
    have : (F64.nanOf bits).extractLsb' 52 11 = 2047#11 := by
      ext i hi
      have : i = 0 ∨ i = 1 ∨ i = 2 ∨ i = 3 ∨ i = 4 ∨ i = 5 ∨ i = 6 ∨ i = 7 ∨ i = 8 ∨ i = 9 ∨ i = 10 := by omega
      rcases this with h | h | h | h | h | h | h | h | h | h | h <;> subst h <;> simp [F64.nanOf]
    simp [F64.exponent, this]
  have hf : F64.fraction (F64.nanOf bits) ≠ 0 := by
    intro h
    have hz : (F64.nanOf bits).extractLsb' 0 52 = 0#52 := BitVec.eq_of_toNat_eq (by simpa [F64.fraction] using h)
    have hbit := congrArg (fun w : BitVec 52 => w.getLsbD 51) hz
    simp [F64.nanOf] at hbit
  simp [F64.isNaN, he, hf]

end Sys2Proof.Machine
end

