-- ==== Sys2Proof/Laws/Inversion.lean ====
section
/-! SUPPORT. Everything the cycle of one device can do, for every instruction at once: the inversion lemma that an
invariant or a frame of the whole machine cites instead of unfolding nineteen cycles. -/

namespace Sys2Proof.Machine

/-- The effects write no storage. -/
def WritesNothing (effs : List Effect) : Prop := ∀ k b, Effect.storageWrite k b ∉ effs

/-- The cycle ended: the device is inactive in Ready, the registry is clear and reception was re-armed (R162). -/
def CycleEnded (u t : State) (dev' : Device) (effs : List Effect) : Prop :=
  dev'.active = false ∧ dev'.state = .ready ∧ t.registry = none ∧ t.blocked = u.blocked ∧
    ∃ e, effs = e ++ [.forceListen]

/-- A `Poll()` that never returns holds the engine inside the cycle (R255). -/
def CycleHeld (u t : State) (d : Nat) (dev' : Device) : Prop :=
  u.nextEnv.vals = none ∧ t.blocked = true ∧ dev'.active = true ∧ dev'.state ≠ .ready ∧ dev'.state ≠ .lowPower ∧
    (t.registry = none ∨ t.registry = some d)

/-- What a cycle that writes lines may leave in them (R190, R209, R214). -/
def LinesWritten (cfg : Config) (ls : List Bytes) : Prop :=
  ls = emptyLines cfg ∨ ∃ cap vals, (cap = shortCap ∨ cap = longCap) ∧ packAt cap cfg vals = some ls

/-- What the cycle of instruction `i` on device `d`, with registers `dev` before, makes of the state `u`. -/
structure CycleResult (i : Instr) (u t : State) (d : Nat) (dev dev' : Device) (effs : List Effect) : Prop where
  devices : t.devices = u.devices.set d dev'
  cfg : t.cfg = u.cfg
  inputs : t.inputs = u.inputs
  hostResult : t.hostResult = u.hostResult
  trace : t.trace = u.trace ++ effs
  slot : dev'.storageSlot = dev.storageSlot
  crc : dev'.crcRequested = crcOf i
  address : dev'.address = dev.address ∨ (i.mclass = .addressChange ∧ acceptedAddress i.param1 = some dev'.address)
  storage : t.storage = if i.mclass = .addressChange then readdressStorage i.param1 dev u.storage else u.storage
  writes : i.mclass ≠ .addressChange → WritesNothing effs
  lines : dev'.lines = dev.lines ∨ (i.isProbe = false ∧ i.mclass.measurementClass = true ∧
    i.mclass ≠ .continuousMeasurement ∧ LinesWritten u.cfg dev'.lines)
  pending : ∃ cmds, t.pending = u.pending ++ cmds
  quiet : i.isProbe = true ∨ i.mclass.measurementClass = false ∨ i.mclass = .verification →
    t.pending = u.pending ∧ t.envs = u.envs ∧ t.drawn = u.drawn ∧ t.blocked = u.blocked
  envs : (t.envs = u.envs ∧ t.drawn = u.drawn) ∨ (t.envs = u.envs.tail ∧ t.drawn = u.drawn + 1)
  ending : CycleEnded u t dev' effs ∨ CycleHeld u t d dev'

theorem writesNothing_plainReply (dev : Device) (payload : Bytes) : WritesNothing (plainReply dev payload) := by
  intro k b h; simp [plainReply] at h

theorem writesNothing_dataReply (dev : Device) (payload : Bytes) (q : Qualifier) :
    WritesNothing (dataReply dev payload q) := by
  intro k b h; cases q <;> simp [dataReply, plainReply] at h

theorem plainReply_ends (dev : Device) (payload : Bytes) : ∃ e, plainReply dev payload = e ++ [.forceListen] :=
  ⟨[.send (dev.address :: (payload ++ crlf))], rfl⟩

theorem dataReply_ends (dev : Device) (payload : Bytes) (q : Qualifier) :
    ∃ e, dataReply dev payload q = e ++ [.forceListen] := by
  cases q
  · exact plainReply_ends dev payload
  · exact ⟨[_], rfl⟩

theorem writesNothing_windowEffects (mode : Mode) (e : Env) : WritesNothing (windowEffects mode e) := by
  intro k b h
  cases mode <;> simp [windowEffects, drainEffects] at h

/-- A cycle that only replies and ends. -/
theorem cycleResult_plain {i : Instr} {u t : State} {d : Nat} {dev : Device} {effs : List Effect}
    (hi : i.mclass ≠ .addressChange) (hr : u.registry = none) (hw : WritesNothing effs)
    (he : ∃ e, effs = e ++ [.forceListen])
    (ht : t = { u with devices := u.devices.set d (dev.cycled (crcOf i)), trace := u.trace ++ effs }) :
    CycleResult i u t d dev (dev.cycled (crcOf i)) effs := by
  subst ht
  exact ⟨rfl, rfl, rfl, rfl, rfl, rfl, rfl, .inl rfl, by simp [hi], fun _ => hw, .inl rfl, ⟨[], by simp⟩,
    fun _ => ⟨rfl, rfl, rfl, rfl⟩, .inl ⟨rfl, rfl⟩, .inl ⟨rfl, rfl, hr, rfl, he⟩⟩

/-- A measurement-class verb: the cycle of a class whose lines come from PACK or are empty. -/
theorem cycleResult_measure {i : Instr} {m : MClass} {p : BitVec 16} {u t : State} {d : Nat} {dev : Device}
    (hi : i.mclass.measurementClass = true) (hp : i.isProbe = false) (hc : i.mclass ≠ .continuousMeasurement)
    (hv : i.mclass ≠ .verification) (hst : m.st ≠ .ready ∧ m.st ≠ .lowPower)
    (hm : ∀ cfg vals ls, m.produce cfg vals = some ls → LinesWritten cfg ls)
    (hr : u.registry = none) (h : u.devices[d]? = some dev)
    (ht : m.measure p d (u.activate d (crcOf i)) = .next t) :
    ∃ dev' effs, CycleResult i u t d dev dev' effs := by
  have hne : i.mclass ≠ .addressChange := by intro hh; rw [hh] at hi; cases hi
  have hquiet : i.isProbe = true ∨ i.mclass.measurementClass = false ∨ i.mclass = .verification → False := by
    rintro (h1 | h1 | h1)
    · rw [hp] at h1; cases h1
    · rw [hi] at h1; cases h1
    · exact hv h1
  have hwn : ∀ (b : Bytes) (rest : List Effect), WritesNothing rest →
      WritesNothing (Effect.send b :: windowEffects m.mode u.nextEnv ++ rest) := by
    intro b rest hrest k c hmem
    simp only [List.cons_append, List.mem_cons, List.mem_append, reduceCtorEq, false_or] at hmem
    exact hmem.elim (writesNothing_windowEffects _ _ k c) (hrest k c)
  by_cases hsup : supportedIndex p = true
  · rw [m.measure_run p _ h hsup] at ht
    cases hvals : u.nextEnv.vals with
    | none =>
      simp only [hvals] at ht
      cases ht
      refine ⟨dev.measuring m.st (crcOf i), _, rfl, rfl, rfl, rfl, rfl, rfl, rfl, .inl rfl, by simp [hne], fun _ => ?_,
        .inl rfl, ⟨[], by simp⟩, fun hq => (hquiet hq).elim, .inr ⟨rfl, rfl⟩,
        .inr ⟨hvals, rfl, rfl, hst.1, hst.2, .inl rfl⟩⟩
      intro k b hk; simp at hk
    | some vals =>
      simp only [hvals] at ht
      split at ht
      · cases ht
        refine ⟨{ dev.cycled (crcOf i) with lines := emptyLines u.cfg },
          .send (dev.address :: (m.tokOk ++ crlf)) :: windowEffects m.mode u.nextEnv ++ [.forceListen],
          rfl, rfl, rfl, rfl, by simp, rfl, rfl, .inl rfl, by simp [hne], fun _ => ?_, .inr ⟨hp, hi, hc, .inl rfl⟩, ?_, fun hq => (hquiet hq).elim, .inr ⟨rfl, rfl⟩,
          .inl ⟨rfl, rfl, rfl, rfl, ?_⟩⟩
        · exact hwn _ _ (by intro k b hk; simp at hk)
        · unfold pendingAfter; split
          · exact ⟨_, rfl⟩
          · exact ⟨[], by simp⟩
        · exact ⟨_, rfl⟩
      · split at ht
        · rename_i ls hls
          cases ht
          refine ⟨{ dev.cycled (crcOf i) with lines := ls },
            .send (dev.address :: (m.tokOk ++ crlf)) :: windowEffects m.mode u.nextEnv ++
              (match m.mode with
               | .hold => [.send (dev.address :: crlf), .forceListen]
               | .release => [.forceListen]),
            rfl, rfl, rfl, rfl, by cases m.mode <;> simp, rfl, rfl, .inl rfl, by simp [hne], fun _ => ?_,
            .inr ⟨hp, hi, hc, hm _ _ _ hls⟩, ?_, fun hq => (hquiet hq).elim, .inr ⟨rfl, rfl⟩, .inl ⟨rfl, rfl, rfl, rfl, ?_⟩⟩
          · refine hwn _ _ ?_
            intro k b hk; cases hmode : m.mode <;> simp [hmode] at hk
          · unfold pendingAfter; split
            · exact ⟨_, rfl⟩
            · exact ⟨[], by simp⟩
          · cases m.mode
            · exact ⟨Effect.send (dev.address :: (m.tokOk ++ crlf)) :: windowEffects .hold u.nextEnv ++
                [.send (dev.address :: crlf)], by simp⟩
            · exact ⟨_, rfl⟩
        · cases ht
  · rw [m.measure_unsupported p _ h hr (by simpa using hsup)] at ht
    cases ht
    exact ⟨{ dev.cycled (crcOf i) with lines := emptyLines u.cfg }, _, rfl, rfl, rfl, rfl, rfl, rfl, rfl, .inl rfl,
      by simp [hne], fun _ => writesNothing_plainReply _ _, .inr ⟨hp, hi, hc, .inl rfl⟩, ⟨[], by simp⟩,
      fun hq => (hquiet hq).elim, .inl ⟨rfl, rfl⟩, .inl ⟨rfl, rfl, hr, rfl, plainReply_ends _ _⟩⟩

/-- The cycle of CONT. -/
theorem cycleResult_continuous {i : Instr} {p : BitVec 16} {q : Qualifier} {u t : State} {d : Nat} {dev : Device}
    (hi : i.mclass = .continuousMeasurement) (hp : i.isProbe = false) (hq : crcOf i = crcq q)
    (h : u.devices[d]? = some dev) (ht : continuousCycle p d (u.activate d (crcOf i)) = .next t) :
    ∃ dev' effs, CycleResult i u t d dev dev' effs := by
  have hquiet : i.isProbe = true ∨ i.mclass.measurementClass = false ∨ i.mclass = .verification → False := by
    simp [hi, hp, Verb.measurementClass]
  rw [hq, continuousCycle_run p q h] at ht
  cases hvals : u.nextEnv.vals with
  | none =>
    simp only [hvals] at ht
    cases ht
    refine ⟨dev.measuring .continuous (crcq q), _, rfl, rfl, rfl, rfl, rfl, rfl, hq.symm, .inl rfl, by simp [hi],
      fun _ => ?_, .inl rfl, ⟨[], by simp⟩, fun hh => (hquiet hh).elim, .inr ⟨rfl, rfl⟩,
      .inr ⟨hvals, rfl, rfl, nofun, nofun, .inr rfl⟩⟩
    intro k b hk; simp at hk
  | some vals =>
    simp only [hvals] at ht
    cases ht
    refine ⟨dev.cycled (crcq q), _, rfl, rfl, rfl, rfl, rfl, rfl, hq.symm, .inl rfl, by simp [hi], fun _ => ?_,
      .inl rfl, ⟨[], by simp⟩, fun hh => (hquiet hh).elim, .inr ⟨rfl, rfl⟩, .inl ⟨rfl, rfl, rfl, rfl, ?_⟩⟩
    · intro k b hk
      simp only [List.mem_cons, reduceCtorEq, false_or] at hk
      exact writesNothing_dataReply _ _ _ k b hk
    · obtain ⟨e, he⟩ := dataReply_ends dev (continuousPayload u.cfg vals p) q
      exact ⟨.poll :: e, by rw [he]; rfl⟩

/-- VERIFY, which clears the lines. -/
theorem cycleResult_verify {i : Instr} {u t : State} {d : Nat} {dev : Device}
    (hi : i.mclass = .verification) (hp : i.isProbe = false) (hr : u.registry = none)
    (h : u.devices[d]? = some dev) (ht : verifyCycle d (u.activate d (crcOf i)) = .next t) :
    ∃ dev' effs, CycleResult i u t d dev dev' effs := by
  rw [verifyCycle_run _ h hr] at ht
  cases ht
  exact ⟨{ dev.cycled (crcOf i) with lines := emptyLines u.cfg }, _, rfl, rfl, rfl, rfl, rfl, rfl, rfl, .inl rfl,
    by simp [hi], fun _ => writesNothing_plainReply _ _, .inr ⟨hp, by simp [hi, Verb.measurementClass], by simp [hi],
    .inl rfl⟩, ⟨[], by simp⟩, fun _ => ⟨rfl, rfl, rfl, rfl⟩, .inl ⟨rfl, rfl⟩,
    .inl ⟨rfl, rfl, hr, rfl, plainReply_ends _ _⟩⟩

/-- ACHG. -/
theorem cycleResult_addressChange {i : Instr} {u t : State} {d : Nat} {dev : Device} (hi : i.mclass = .addressChange)
    (hq : crcOf i = false) (hr : u.registry = none) (h : u.devices[d]? = some dev)
    (ht : addressChangeCycle i.param1 d (u.activate d (crcOf i)) = .next t) :
    ∃ dev' effs, CycleResult i u t d dev dev' effs := by
  rw [hq, addressChangeCycle_run _ h hr] at ht
  cases ht
  have hd : (dev.readdressed i.param1).storageSlot = dev.storageSlot ∧
      (dev.readdressed i.param1).crcRequested = false ∧ (dev.readdressed i.param1).lines = dev.lines ∧
      (dev.readdressed i.param1).active = false ∧ (dev.readdressed i.param1).state = .ready := by
    unfold Device.readdressed; split <;> exact ⟨rfl, rfl, rfl, rfl, rfl⟩
  refine ⟨dev.readdressed i.param1, readdressEffects dev i.param1, rfl, rfl, rfl, rfl, rfl, hd.1, hd.2.1.trans hq.symm,
    ?_, by simp [hi], fun hn => (hn hi).elim, .inl hd.2.2.1, ⟨[], by simp⟩, fun _ => ⟨rfl, rfl, rfl, rfl⟩,
    .inl ⟨rfl, rfl⟩, .inl ⟨hd.2.2.2.1, hd.2.2.2.2, hr, rfl, ?_⟩⟩
  · unfold Device.readdressed
    cases ha : acceptedAddress i.param1
    · exact .inl rfl
    · exact .inr ⟨hi, rfl⟩
  · unfold readdressEffects
    split
    · rename_i b _
      exact ⟨mirrorEffects dev b ++ [.send (b :: crlf)], by simp⟩
    · exact plainReply_ends _ _

/-- Everything the cycle of any instruction can do to a state whose registry is clear. -/
theorem cycleOf_inv {i : Instr} {u t : State} {d : Nat} {dev : Device} (hk : i.mclass ≠ .unknown)
    (hr : u.registry = none) (h : u.devices[d]? = some dev)
    (ht : cycleOf i d (u.activate d (crcOf i)) = .next t) : ∃ dev' effs, CycleResult i u t d dev dev' effs := by
  have pack_written : ∀ cap, (cap = shortCap ∨ cap = longCap) → ∀ cfg vals ls, packAt cap cfg vals = some ls →
      LinesWritten cfg ls := fun cap hc cfg vals ls hl => .inr ⟨cap, vals, hc, hl⟩
  cases i with
  | unknown a pr se p1 p2 => exact (hk rfl).elim
  | meas a q p1 p2 =>
    exact cycleResult_measure rfl rfl nofun nofun (by decide) (pack_written _ (.inl rfl)) hr h ht
  | conc a q p1 p2 =>
    exact cycleResult_measure rfl rfl nofun nofun (by decide) (pack_written _ (.inr rfl)) hr h ht
  | hva a q p1 p2 =>
    exact cycleResult_measure rfl rfl nofun nofun (by decide) (pack_written _ (.inr rfl)) hr h ht
  | hvb a q p1 p2 =>
    exact cycleResult_measure rfl rfl nofun nofun (by decide)
      (fun cfg _ ls hl => .inl (Option.some.inj hl).symm) hr h ht
  | cont a q p1 p2 => exact cycleResult_continuous rfl rfl rfl h ht
  | verify a q p1 p2 => exact cycleResult_verify rfl rfl hr h ht
  | achg a p1 p2 => exact cycleResult_addressChange rfl rfl hr h ht
  | aqry a p1 p2 =>
    rw [show cycleOf (.aqry a p1 p2) = addressCycle from rfl, addressCycle_run _ h hr] at ht
    cases ht
    exact ⟨_, _, cycleResult_plain nofun hr (writesNothing_plainReply _ _) (plainReply_ends _ _) rfl⟩
  | ack a p1 p2 =>
    rw [show cycleOf (.ack a p1 p2) = addressCycle from rfl, addressCycle_run _ h hr] at ht
    cases ht
    exact ⟨_, _, cycleResult_plain nofun hr (writesNothing_plainReply _ _) (plainReply_ends _ _) rfl⟩
  | ident a p1 p2 =>
    rw [show cycleOf (.ident a p1 p2) = identCycle from rfl, identCycle_run _ h hr] at ht
    cases ht
    exact ⟨_, _, cycleResult_plain nofun hr (writesNothing_plainReply _ _) (plainReply_ends _ _) rfl⟩
  | identM a p1 p2 =>
    rw [show cycleOf (.identM a p1 p2) = measurementClass.probe p1 from rfl, MClass.probe_run _ _ _ h hr] at ht
    cases ht
    exact ⟨_, _, cycleResult_plain nofun hr (writesNothing_plainReply _ _) (plainReply_ends _ _) rfl⟩
  | identC a p1 p2 =>
    rw [show cycleOf (.identC a p1 p2) = concurrentClass.probe p1 from rfl, MClass.probe_run _ _ _ h hr] at ht
    cases ht
    exact ⟨_, _, cycleResult_plain nofun hr (writesNothing_plainReply _ _) (plainReply_ends _ _) rfl⟩
  | identR a p1 p2 =>
    rw [show cycleOf (.identR a p1 p2) = continuousProbeCycle from rfl, continuousProbeCycle_run _ h hr] at ht
    cases ht
    exact ⟨_, _, cycleResult_plain nofun hr (writesNothing_plainReply _ _) (plainReply_ends _ _) rfl⟩
  | identHA a p1 p2 =>
    rw [show cycleOf (.identHA a p1 p2) = highVolumeAsciiClass.probe p1 from rfl, MClass.probe_run _ _ _ h hr] at ht
    cases ht
    exact ⟨_, _, cycleResult_plain nofun hr (writesNothing_plainReply _ _) (plainReply_ends _ _) rfl⟩
  | identHB a p1 p2 =>
    rw [show cycleOf (.identHB a p1 p2) = highVolumeByteClass.probe p1 from rfl, MClass.probe_run _ _ _ h hr] at ht
    cases ht
    exact ⟨_, _, cycleResult_plain nofun hr (writesNothing_plainReply _ _) (plainReply_ends _ _) rfl⟩
  | identV a p1 p2 =>
    rw [show cycleOf (.identV a p1 p2) = verifyProbeCycle from rfl, verifyProbeCycle_run _ h hr] at ht
    cases ht
    exact ⟨_, _, cycleResult_plain nofun hr (writesNothing_plainReply _ _) (plainReply_ends _ _) rfl⟩
  | data a q p1 p2 =>
    rw [show cycleOf (.data a q p1 p2) = dataCycle p1 from rfl, show crcOf (.data a q p1 p2) = crcq q from rfl,
      dataCycle_run q p1 h hr] at ht
    cases ht
    exact ⟨_, _, cycleResult_plain (i := .data a q p1 p2) nofun hr (writesNothing_dataReply _ _ _)
      (dataReply_ends _ _ _) rfl⟩
  | bdata a q p1 p2 =>
    rw [show cycleOf (.bdata a q p1 p2) = byteDataCycle from rfl, byteDataCycle_run _ h hr] at ht
    cases ht
    exact ⟨_, _, cycleResult_plain nofun hr (by intro k b hk; simp at hk) ⟨[_], rfl⟩ rfl⟩

/-- What every served device's cycle keeps, every command keeps: an UNKNOWN record only extends the trace. -/
theorem exec_keeps (i : Instr) (P : State → Prop)
    (hreject : ∀ d u, P u → u.answers i.address d = true → i.mclass = .unknown → P (u.reject d))
    (hcycle : ∀ d u t dev dev' effs, P u → u.claimed = false → u.blocked = false → u.devices[d]? = some dev →
      dev.takes i.address = true → CycleResult i u t d dev dev' effs → P t)
    {s t : State} (hs : P s) (h : exec i s = .next t) : P t := by
  by_cases hk : i.mclass = .unknown
  · obtain ⟨a, pr, se, p1, p2, rfl⟩ : ∃ a pr se p1 p2, i = .unknown a pr se p1 p2 := by
      cases i <;> first | exact ⟨_, _, _, _, _, rfl⟩ | cases hk
    refine visit_keeps P ?_ _ s t hs h
    intro d u v hu hans hv
    cases hv
    exact hreject d u hu hans hk
  · have hi : exec i s = dispatch i.address (crcOf i) (cycleOf i) s := by
      rcases exec_eq_dispatch i s with ⟨_, _, _, _, hi⟩ | hi
      · rw [hi] at hk; exact (hk rfl).elim
      · exact hi
    rw [hi] at h
    refine visit_keeps P ?_ _ s t hs h
    intro d u v hu hans hv
    obtain ⟨hb, dev, hd, hmatch, hst⟩ := State.answers_inv hans
    by_cases hc : u.claimed = true
    · rw [begin_claimed hc] at hv; cases hv
    · have hc' : u.claimed = false := by simpa using hc
      rw [begin_unclaimed hc'] at hv
      obtain ⟨dev', effs, hres⟩ := cycleOf_inv hk (u.claimed_iff.mp hc').2 hd hv
      exact hcycle d u v dev dev' effs hu hc' hb hd (by simp [Device.takes, hmatch, hst]) hres

end Sys2Proof.Machine
end

