-- ==== Sys2Proof/Laws/Memory.lean ====
section
/-! SUPPORT. Persistent storage (20_memory.md R56): a write keeps the canonical form, the byte written reads back, and every
other byte reads as before. -/

namespace Sys2Proof.Machine

theorem Memory.wfFrom_mono {lo lo' : Nat} {m : Memory} (h : lo' ≤ lo) (hm : Memory.wfFrom lo m = true) :
    Memory.wfFrom lo' m = true := by
  cases m with
  | nil => rfl
  | cons c rest =>
    obtain ⟨k, b⟩ := c
    simp [Memory.wfFrom] at hm ⊢
    exact ⟨⟨by omega, hm.1.2⟩, hm.2⟩

/-- Nothing is listed below the first index. -/
theorem Memory.read_below {m : Memory} : ∀ {lo a : Nat}, Memory.wfFrom lo m = true → a < lo →
    Memory.read m a = erasedByte := by
  induction m with
  | nil => intros; rfl
  | cons c rest ih =>
    obtain ⟨k, b⟩ := c
    intro lo a hm ha
    simp [Memory.wfFrom] at hm
    rw [Memory.read, if_neg (by omega)]
    exact ih hm.2 (by omega)

theorem Memory.wfFrom_write {m : Memory} : ∀ {lo a : Nat} (v : Byte), Memory.wfFrom lo m = true → lo ≤ a →
    Memory.wfFrom lo (Memory.write m a v) = true := by
  induction m with
  | nil =>
    intro lo a v _ ha
    unfold Memory.write
    split
    · rfl
    · rename_i hv; simp [Memory.wfFrom, ha, hv]
  | cons c rest ih =>
    obtain ⟨k, b⟩ := c
    intro lo a v hm ha
    have hm' := hm
    simp [Memory.wfFrom] at hm
    unfold Memory.write
    split
    · split
      · exact hm'
      · rename_i hak hv
        simp [Memory.wfFrom, ha, hv, hm.1.2, hm.2]
        omega
    · split
      · split
        · exact Memory.wfFrom_mono (by omega) hm.2
        · rename_i hv; subst_vars; simp [Memory.wfFrom, ha, hv, hm.2]
      · simp [Memory.wfFrom, hm.1]
        exact ih v hm.2 (by omega)

/-- A write keeps the canonical form. -/
theorem Memory.wf_write {m : Memory} (a : Nat) (v : Byte) (h : m.wf = true) : (Memory.write m a v).wf = true :=
  Memory.wfFrom_write v h (Nat.zero_le a)

theorem Memory.read_write_from {m : Memory} : ∀ {lo : Nat} (a x : Nat) (v : Byte), Memory.wfFrom lo m = true →
    Memory.read (Memory.write m a v) x = if x = a then v else Memory.read m x := by
  induction m with
  | nil =>
    intro lo a x v _
    unfold Memory.write
    split
    · rename_i hv; subst hv; simp [Memory.read]
    · simp [Memory.read, eq_comm]
  | cons c rest ih =>
    obtain ⟨k, b⟩ := c
    intro lo a x v hm
    simp [Memory.wfFrom] at hm
    unfold Memory.write
    split
    · rename_i hak
      split
      · rename_i hv
        subst hv
        split
        · rename_i hx
          subst hx
          rw [Memory.read, if_neg (by omega)]
          exact Memory.read_below hm.2 (by omega)
        · rfl
      · rw [Memory.read]
        simp only [eq_comm]
    · split
      · rename_i hak
        subst hak
        split
        · rename_i hv
          subst hv
          by_cases hx : x = a
          · subst hx; simp; exact Memory.read_below hm.2 (by omega)
          · simp [hx, Memory.read, Ne.symm hx]
        · by_cases hx : x = a
          · simp [hx, Memory.read]
          · simp [hx, Memory.read, Ne.symm hx]
      · rename_i hlt hne
        by_cases hkx : k = x
        · subst hkx; simp [Memory.read, Ne.symm hne]
        · simp [Memory.read, hkx, ih a x v hm.2]

/-- The byte written reads back, every other byte reads as before. -/
theorem Memory.read_write {m : Memory} (h : m.wf = true) (a x : Nat) (v : Byte) :
    Memory.read (Memory.write m a v) x = if x = a then v else Memory.read m x :=
  Memory.read_write_from a x v h

end Sys2Proof.Machine
end

