-- ==== Sys2Proof/Laws/PerInstr.lean ====
section
/-! SUPPORT. The family of statements made per instruction: the word of an instruction holds its fields (30_encoding.md
R71 to R73). -/

namespace Sys2Proof.Laws.HoldsFields

/-- The word of `i` holds the address, the two parameters and the verb and qualifier codes of `i`, each in its place. -/
def Statement (i : Instr) : Prop :=
  Record.address (encode i) = i.address ∧ Record.primary (encode i) = i.primaryCode ∧
    Record.secondary (encode i) = i.secondaryCode ∧ Record.param1 (encode i) = i.param1 ∧
    Record.param2 (encode i) = i.param2

theorem aqry (a : Byte) (p1 p2 : BitVec 16) : Statement (.aqry a p1 p2) := encodeFields_fields _ _ _ _ _
theorem ack (a : Byte) (p1 p2 : BitVec 16) : Statement (.ack a p1 p2) := encodeFields_fields _ _ _ _ _
theorem ident (a : Byte) (p1 p2 : BitVec 16) : Statement (.ident a p1 p2) := encodeFields_fields _ _ _ _ _
theorem identM (a : Byte) (p1 p2 : BitVec 16) : Statement (.identM a p1 p2) := encodeFields_fields _ _ _ _ _
theorem identC (a : Byte) (p1 p2 : BitVec 16) : Statement (.identC a p1 p2) := encodeFields_fields _ _ _ _ _
theorem identR (a : Byte) (p1 p2 : BitVec 16) : Statement (.identR a p1 p2) := encodeFields_fields _ _ _ _ _
theorem identHA (a : Byte) (p1 p2 : BitVec 16) : Statement (.identHA a p1 p2) := encodeFields_fields _ _ _ _ _
theorem identHB (a : Byte) (p1 p2 : BitVec 16) : Statement (.identHB a p1 p2) := encodeFields_fields _ _ _ _ _
theorem identV (a : Byte) (p1 p2 : BitVec 16) : Statement (.identV a p1 p2) := encodeFields_fields _ _ _ _ _
theorem achg (a : Byte) (p1 p2 : BitVec 16) : Statement (.achg a p1 p2) := encodeFields_fields _ _ _ _ _
theorem meas (a : Byte) (q : Qualifier) (p1 p2 : BitVec 16) : Statement (.meas a q p1 p2) := encodeFields_fields _ _ _ _ _
theorem conc (a : Byte) (q : Qualifier) (p1 p2 : BitVec 16) : Statement (.conc a q p1 p2) := encodeFields_fields _ _ _ _ _
theorem hva (a : Byte) (q : Qualifier) (p1 p2 : BitVec 16) : Statement (.hva a q p1 p2) := encodeFields_fields _ _ _ _ _
theorem hvb (a : Byte) (q : Qualifier) (p1 p2 : BitVec 16) : Statement (.hvb a q p1 p2) := encodeFields_fields _ _ _ _ _
theorem cont (a : Byte) (q : Qualifier) (p1 p2 : BitVec 16) : Statement (.cont a q p1 p2) := encodeFields_fields _ _ _ _ _
theorem data (a : Byte) (q : Qualifier) (p1 p2 : BitVec 16) : Statement (.data a q p1 p2) := encodeFields_fields _ _ _ _ _
theorem bdata (a : Byte) (q : Qualifier) (p1 p2 : BitVec 16) : Statement (.bdata a q p1 p2) := encodeFields_fields _ _ _ _ _
theorem verify (a : Byte) (q : Qualifier) (p1 p2 : BitVec 16) : Statement (.verify a q p1 p2) := encodeFields_fields _ _ _ _ _
theorem unknown (a : Byte) (pr se : BitVec 4) (p1 p2 : BitVec 16) : Statement (.unknown a pr se p1 p2) :=
  encodeFields_fields _ _ _ _ _

end Sys2Proof.Laws.HoldsFields
end

