-- ==== Sys2Proof/Laws/Step.lean ====
section
/-! SUPPORT. Everything one step can do: run the record it fetches, stay where it is, or take one input that is no
record. -/

namespace Sys2Proof.Machine

/-- UNKNOWN writes nothing but the trace (R172). -/
theorem State.reject_eq (u : State) (d : Nat) :
    u.reject d = { u with
      trace := u.trace ++ [.send (asciiReply (u.dev d) u.cfg.rejectPayload false), .forceListen] } := by
  simp [State.reject, State.reply, State.emit]

/-- Where the next record comes from (R58, R239). -/
theorem fetch_inv {s t : State} {w : Record} (h : fetch s = some (w, t)) :
    s.blocked = false ∧
      ((∃ rest, s.pending = w :: rest ∧ t = { s with pending := rest }) ∨
        ∃ rest, s.pending = [] ∧ s.inputs = .record w :: rest ∧ t = { s with inputs := rest }) := by
  unfold fetch at h
  cases hb : s.blocked <;> simp only [hb, if_true, Bool.false_eq_true, if_false, reduceCtorEq] at h
  refine ⟨rfl, ?_⟩
  cases hp : s.pending with
  | cons v rest =>
    simp only [hp, Option.some.injEq, Prod.mk.injEq] at h
    exact .inl ⟨rest, by rw [h.1], h.2.symm⟩
  | nil =>
    simp only [hp] at h
    split at h
    · rename_i v rest hi
      simp only [Option.some.injEq, Prod.mk.injEq] at h
      exact .inr ⟨rest, rfl, by rw [hi, h.1], h.2.symm⟩
    · cases h

/-- A step runs a fetched record, or leaves the state, or takes the oldest input, which is then a host step or a
front-end event. -/
theorem step_inv {s t : State} (h : step s = .next t) :
    (∃ w u, s.blocked = false ∧ fetch s = some (w, u) ∧ exec (decode w) u = .next t) ∨ t = s ∨
      ∃ x rest, s.blocked = false ∧ s.inputs = x :: rest ∧ t = hostStep x { s with inputs := rest } := by
  unfold step at h
  split at h
  · rename_i w u hf
    exact .inl ⟨w, u, (fetch_inv hf).1, hf, h⟩
  · cases h
    unfold betweenCycles
    cases hb : s.blocked
    · cases hi : s.inputs with
      | nil => exact .inr (.inl (by simp))
      | cons x rest => exact .inr (.inr ⟨x, rest, rfl, rfl, by simp⟩)
    · exact .inr (.inl (by simp))

/-- A projection that an update of one entry keeps. -/
theorem map_set_of_eq {α β : Type} (l : List α) (f : α → β) {d : Nat} {x y : α} (h : l[d]? = some x)
    (hxy : f y = f x) : (l.set d y).map f = l.map f := by
  apply List.ext_getElem?
  intro k
  by_cases hk : d = k
  · subst hk
    have hx := List.getElem?_eq_some_iff.mp h
    simp [hx.1, hxy, ← hx.2]
  · simp [hk]

/-- A projection that a modification keeps. -/
theorem map_modify_of_eq {α β : Type} (l : List α) (f : α → β) (d : Nat) {g : α → α} (h : ∀ x, f (g x) = f x) :
    (l.modify d g).map f = l.map f := by
  apply List.ext_getElem?
  intro k
  rw [List.getElem?_map, List.getElem?_map, List.getElem?_modify]
  cases l[k]? with
  | none => rfl
  | some x => by_cases hk : d = k <;> simp [hk, h]

end Sys2Proof.Machine
end

