-- ==== Sys2Proof/Tests/Slice0.lean ====
section
/-! SUPPORT. Tests: ill-formed terms that WellFormed refuses, words written out from the encoding of 30_encoding.md R71 to
R73, single steps whose results stand in 95_test_vectors.md, and a witness for the hypotheses of every obligation. -/

namespace Sys2Proof.Tests

open Sys2Proof Sys2Proof.Machine

-- one theorem at a time: the kernel evaluations below, started all at once, ask for too many threads
set_option Elab.async false

/-! ### WellFormed -/

/-- AddressQuery's pair (0, 0) is admitted, so it is no UNKNOWN. -/
theorem test_wellformed_refuses_admitted_query : WellFormed (.unknown 0x30 0 0 0 0) = false := by decide

/-- Identification with `secondary` 6 is admitted (R73). -/
theorem test_wellformed_refuses_admitted_probe : WellFormed (.unknown 0x30 2 6 0 0) = false := by decide

/-- Verification with CRC is admitted (R73). -/
theorem test_wellformed_refuses_admitted_crc : WellFormed (.unknown 0x30 11 7 0 0) = false := by decide

/-- Acknowledge with CRC and the reserved `primary` 15 are not admitted (R73, R83). -/
theorem test_wellformed_accepts_unadmitted :
    WellFormed (.unknown 0x30 1 7 0 0) = true ∧ WellFormed (.unknown 0x30 15 0 0 0) = true := by decide

/-! ### Decoding: every row of the table, words written out from R71 to R73 -/

theorem test_decode_aqry : decode 0x3F0000000000 = .aqry 0x3F 0 0 := by decide
theorem test_decode_ack : decode 0x301000000000 = .ack 0x30 0 0 := by decide
theorem test_decode_ident : decode 0x7A2012345678 = .ident 0x7A 0x1234 0x5678 := by decide
theorem test_decode_identM : decode 0x302100010000 = .identM 0x30 1 0 := by decide
theorem test_decode_identC : decode 0x30220000FFFF = .identC 0x30 0 0xFFFF := by decide
theorem test_decode_identR : decode 0x302300000000 = .identR 0x30 0 0 := by decide
theorem test_decode_identHA : decode 0x302400000000 = .identHA 0x30 0 0 := by decide
theorem test_decode_identHB : decode 0x302500000000 = .identHB 0x30 0 0 := by decide
theorem test_decode_identV : decode 0x302600000000 = .identV 0x30 0 0 := by decide
theorem test_decode_achg : decode 0x303001350000 = .achg 0x30 0x135 0 := by decide
theorem test_decode_meas : decode 0x304700000000 = .meas 0x30 .crc 0 0 := by decide
theorem test_decode_conc : decode 0x315000020000 = .conc 0x31 .plain 2 0 := by decide
theorem test_decode_hva : decode 0x306700000001 = .hva 0x30 .crc 0 1 := by decide
theorem test_decode_hvb : decode 0x307080000000 = .hvb 0x30 .plain 0x8000 0 := by decide
theorem test_decode_cont : decode 0x308700060000 = .cont 0x30 .crc 6 0 := by decide
theorem test_decode_data : decode 0x3090000A0000 = .data 0x30 .plain 10 0 := by decide
theorem test_decode_bdata : decode 0x30A700000000 = .bdata 0x30 .crc 0 0 := by decide
theorem test_decode_verify : decode 0x30B000000000 = .verify 0x30 .plain 0 0 := by decide
theorem test_decode_unknown_verb : decode 0x30C000000000 = .unknown 0x30 12 0 0 0 := by decide
theorem test_decode_unknown_reserved_verb : decode 0xFFFFFFFFFFFF = .unknown 0xFF 15 15 0xFFFF 0xFFFF := by decide
theorem test_decode_unknown_reserved_probe : decode 0x302800000000 = .unknown 0x30 2 8 0 0 := by decide
theorem test_decode_unknown_unadmitted_crc : decode 0x301700000000 = .unknown 0x30 1 7 0 0 := by decide

/-- The host's reading of a table word, and its bound of 48 bits. -/
theorem test_decodeTableWord : decodeTableWord 48 0x304700000000 = some (.meas 0x30 .crc 0 0) ∧
    decodeTableWord 40 0x4000000000 = some (.meas 0 .plain 0 0) ∧
    decodeTableWord 8 256 = none ∧ decodeTableWord 56 0 = none := by decide

/-! ### A small machine: the conventions of 95_test_vectors.md, the device with storage slot 3 -/

def config : Config where
  lineSlots := 10
  fieldCap := 9
  identString := [0x49, 0x44]
  rejectPayload := [0x21]
  contProbeToken := [0x54]
  packStrict := true
  cancelCmdRetained := true
  devices := [{ slot := some 3, initialAddress := 0x30 }]

/-- `V8` of 95_test_vectors.md. -/
def v8 : Values := #v[0x3FF199999999999A, 0xC001C28F5C28F5C3, 0x400AA9FBE76C8B44, 0xC011C710CB295E9E, 0x401638E219652BD4,
  0xC01AAAAA7DED6BA9, 0x4053B1C7192EA52F, 0xC08BD71C714FCE74, 0xBFBC71C717AC1923]

/-- `W` of 95_test_vectors.md. -/
def w9 : Values := #v[0x4039000000000000, 0xBFE0000000000000, 0x7FF8000000000000, 0x4202A05F20000000, 0x0000000000000000,
  0x8000000000000000, 0x40F869FFFE5C91D1, 0x4132D68780000000, 0xC1678C29C0000000]

/-- `PACK(V8, 6, 9, 35)` of 95_test_vectors.md 2.2. -/
def l35 : List Bytes := [
  [0x2B, 0x31, 0x2E, 0x31, 0x2D, 0x32, 0x2E, 0x32, 0x32, 0x2B, 0x33, 0x2E, 0x33, 0x33, 0x33, 0x2D, 0x34, 0x2E, 0x34, 0x34, 0x34, 0x34, 0x2B, 0x35, 0x2E, 0x35, 0x35, 0x35, 0x35, 0x35],
  [0x2D, 0x36, 0x2E, 0x36, 0x36, 0x36, 0x36, 0x36, 0x36, 0x2B, 0x37, 0x38, 0x2E, 0x37, 0x37, 0x37, 0x37, 0x38, 0x2D, 0x38, 0x39, 0x30, 0x2E, 0x38, 0x38, 0x38, 0x39],
  [0x2D, 0x30, 0x2E, 0x31, 0x31, 0x31, 0x31, 0x31, 0x31]] ++
  List.replicate 7 []

/-- Slot 0 of `PACK(V8, 6, 9, 75)`. -/
def line75 : Bytes :=
  [0x2B, 0x31, 0x2E, 0x31, 0x2D, 0x32, 0x2E, 0x32, 0x32, 0x2B, 0x33, 0x2E, 0x33, 0x33, 0x33, 0x2D, 0x34, 0x2E, 0x34, 0x34, 0x34, 0x34, 0x2B, 0x35, 0x2E, 0x35, 0x35, 0x35, 0x35, 0x35] ++
  [0x2D, 0x36, 0x2E, 0x36, 0x36, 0x36, 0x36, 0x36, 0x36, 0x2B, 0x37, 0x38, 0x2E, 0x37, 0x37, 0x37, 0x37, 0x38, 0x2D, 0x38, 0x39, 0x30, 0x2E, 0x38, 0x38, 0x38, 0x39] ++
  [0x2D, 0x30, 0x2E, 0x31, 0x31, 0x31, 0x31, 0x31, 0x31]

def device : Device where
  address := 0x30
  storageSlot := some 3
  active := false
  state := .ready
  crcRequested := false
  lines := l35

/-- The state right after reset, but with the lines L35 and with `env` answers that wait. -/
def state (envs : List Env) : State := { State.boot config [] with devices := [device], envs := envs }

def env (vals : Option Values) (lb deact : Bool) (newcmds : List Record) : Env where
  vals := vals
  lb := lb
  deact := deact
  newcmds := newcmds
  framing := false

/-- The acquisition answers V8 and nothing else happens. -/
def quiet : State := state [env (some v8) false false []]

/-- The state after a record, if it is a next state. -/
def after (w : Record) (s : State) : Option State :=
  match exec (decode w) s with
  | .next t => some t
  | .fault _ => none
  | .refused _ => none

/-- The fault of a record, if it is one. -/
def faultOf (w : Record) (s : State) : Option Fault :=
  match exec (decode w) s with
  | .fault r => some r
  | .next _ => none
  | .refused _ => none

/-- The refusal of a record, if it is one. -/
def refusalOf (w : Record) (s : State) : Option Refusal :=
  match exec (decode w) s with
  | .refused r => some r
  | .next _ => none
  | .fault _ => none

/-- The effects of a record. -/
def shown (w : Record) (s : State) : Option (List Effect) := (after w s).map (fun t => t.trace.drop s.trace.length)

/-- The registers of device 0 after a record. -/
def left (w : Record) (s : State) : Option Device := (after w s).bind (fun t => t.devices[0]?)

/-! ### Single records: the command vectors of 95_test_vectors.md 2.3 -/

theorem test_aqry : shown 0x3F0000000000 quiet = some [.send [0x30, 0x0D, 0x0A], .forceListen] := by decide +kernel

theorem test_ack : shown 0x301000000000 quiet = some [.send [0x30, 0x0D, 0x0A], .forceListen] := by decide +kernel

/-- Ignored (R232). -/
theorem test_ack_other_address : after 0x311000000000 quiet = some quiet := by decide +kernel

theorem test_ident : shown 0x302000000000 quiet = some [.send [0x30, 0x49, 0x44, 0x0D, 0x0A], .forceListen] := by decide +kernel

theorem test_identM : shown 0x302100000000 quiet = some [.send [0x30, 0x30, 0x32, 0x31, 0x39, 0x0D, 0x0A], .forceListen] ∧
    left 0x302100000000 quiet = some device := by decide +kernel

theorem test_identM_index : shown 0x302100010000 quiet = some [.send [0x30, 0x30, 0x30, 0x30, 0x30, 0x0D, 0x0A], .forceListen] := by decide +kernel

theorem test_identC : shown 0x302200000000 quiet = some [.send [0x30, 0x30, 0x32, 0x31, 0x30, 0x39, 0x0D, 0x0A], .forceListen] ∧
    left 0x302200000000 quiet = some device := by decide +kernel

theorem test_identR : shown 0x302300000000 quiet = some [.send [0x30, 0x54, 0x0D, 0x0A], .forceListen] := by decide +kernel

theorem test_identHA : shown 0x302400000000 quiet = some [.send [0x30, 0x30, 0x32, 0x31, 0x30, 0x30, 0x39, 0x0D, 0x0A], .forceListen] := by decide +kernel

theorem test_identHB : shown 0x302500000000 quiet = some [.send [0x30, 0x30, 0x32, 0x31, 0x30, 0x30, 0x39, 0x0D, 0x0A], .forceListen] := by decide +kernel

theorem test_identV : shown 0x302600000000 quiet = some [.send [0x30, 0x30, 0x30, 0x30, 0x30, 0x0D, 0x0A], .forceListen] ∧
    left 0x302600000000 quiet = some device := by decide +kernel

/-- To 'z', slot 3 present. -/
theorem test_achg : shown 0x3030007A0000 quiet = some [.storageWrite 3 0x7A, .send [0x7A, 0x0D, 0x0A], .forceListen] ∧
    left 0x3030007A0000 quiet = some { device with address := 0x7A } ∧
    (after 0x3030007A0000 quiet).map (·.storage) = some [(3, 0x7A)] := by decide +kernel

/-- The high byte is not zero. -/
theorem test_achg_high_byte : shown 0x303001350000 quiet = some [.send [0x30, 0x0D, 0x0A], .forceListen] ∧ left 0x303001350000 quiet = some device := by decide +kernel

theorem test_meas : shown 0x304000000000 quiet = some [.send [0x30, 0x30, 0x32, 0x31, 0x39, 0x0D, 0x0A], .delay, .poll, .drain, .send [0x30, 0x0D, 0x0A], .forceListen] ∧
    (left 0x304000000000 quiet).map (·.lines) = some l35 := by decide +kernel

theorem test_meas_line_break : shown 0x304000000000 (state [env (some v8) true false []]) =
      some [.send [0x30, 0x30, 0x32, 0x31, 0x39, 0x0D, 0x0A], .delay, .poll, .drain, .clearLineBreak, .forceListen] ∧
    left 0x304000000000 (state [env (some v8) true false []]) = some { device with lines := List.replicate 10 [] } := by decide +kernel

theorem test_conc : shown 0x305000000000 quiet = some [.send [0x30, 0x30, 0x32, 0x31, 0x30, 0x39, 0x0D, 0x0A], .delay, .poll, .drain, .forceListen] ∧
    (left 0x305000000000 quiet).map (·.lines) = some (line75 :: List.replicate 9 []) := by decide +kernel

/-- The wildcard cancels (R84, R201). -/
theorem test_conc_wildcard : shown 0x305000000000 (state [env (some v8) false false [0x3F0000000000]]) =
      some [.send [0x30, 0x30, 0x32, 0x31, 0x30, 0x39, 0x0D, 0x0A], .delay, .poll, .drain, .forceListen] ∧
    (left 0x305000000000 (state [env (some v8) false false [0x3F0000000000]])).map (·.lines) =
      some (List.replicate 10 []) := by decide +kernel

/-- `PACK(W, 6, 9, 75)`; the line break is not looked at. -/
theorem test_hva : (left 0x306000000000 (state [env (some w9) true false []])).map (·.lines) =
    some ([0x2B, 0x32, 0x35, 0x2D, 0x30, 0x2E, 0x35, 0x4E, 0x61, 0x4E, 0x4E, 0x61, 0x4E, 0x2B, 0x30, 0x2B, 0x30, 0x2B, 0x31, 0x30, 0x30, 0x30, 0x30, 0x30, 0x2B, 0x31, 0x32, 0x33, 0x34, 0x35, 0x36, 0x38, 0x2D, 0x31, 0x32, 0x33, 0x34, 0x35, 0x36, 0x37, 0x38] ::
      List.replicate 9 []) := by decide +kernel

theorem test_hva_index : shown 0x306000010000 quiet = some [.send [0x30, 0x30, 0x30, 0x30, 0x30, 0x30, 0x30, 0x0D, 0x0A], .forceListen] := by decide +kernel

theorem test_hvb : shown 0x307000000000 quiet = some [.send [0x30, 0x30, 0x32, 0x31, 0x30, 0x30, 0x39, 0x0D, 0x0A], .delay, .poll, .drain, .forceListen] ∧
    (left 0x307000000000 quiet).map (·.lines) = some (List.replicate 10 []) := by decide +kernel

theorem test_cont : shown 0x308000060000 quiet = some [.poll, .send [0x30, 0x2B, 0x37, 0x38, 0x2E, 0x37, 0x37, 0x37, 0x37, 0x38, 0x0D, 0x0A], .forceListen] := by decide +kernel

theorem test_cont_past_the_values : shown 0x308000090000 quiet = some [.poll, .send [0x30, 0x0D, 0x0A], .forceListen] ∧
    left 0x308000090000 quiet = some device := by decide +kernel

theorem test_data : shown 0x309000020000 quiet = some [.send [0x30, 0x2D, 0x30, 0x2E, 0x31, 0x31, 0x31, 0x31, 0x31, 0x31, 0x0D, 0x0A], .forceListen] := by decide +kernel

theorem test_data_out_of_range : shown 0x3090000A0000 quiet = some [.send [0x30, 0x0D, 0x0A], .forceListen] := by decide +kernel

theorem test_bdata : shown 0x30A000000000 quiet = some [.send [0x30, 0x00, 0x00, 0x00], .forceListen] := by decide +kernel

theorem test_verify : shown 0x30B000000000 quiet = some [.send [0x30, 0x30, 0x30, 0x30, 0x30, 0x0D, 0x0A], .forceListen] ∧
    left 0x30B000000000 quiet = some { device with lines := List.replicate 10 [] } := by decide +kernel

theorem test_unknown : shown 0x30D000000000 quiet = some [.send [0x30, 0x21, 0x0D, 0x0A], .forceListen] := by decide +kernel

/-- No one-active check (R233). -/
theorem test_unknown_while_claimed : shown 0x301700000000 { quiet with registry := some 0 } = some [.send [0x30, 0x21, 0x0D, 0x0A], .forceListen] := by decide +kernel

/-! ### ENCODE: vectors of 95_test_vectors.md part 1 and 2.1 -/

/-- 0.25, X2. -/
theorem test_encode_tie_even : encodeValue 0x3FD0000000000000 1 0 false false = .ok [0x30, 0x2E, 0x32] := by decide +kernel

/-- 0.15, X3. -/
theorem test_encode_tie_odd : encodeValue 0x3FC3333333333333 1 0 false false = .ok [0x30, 0x2E, 0x32] := by decide +kernel

/-- 0.4991, X10. -/
theorem test_encode_above_threshold : encodeValue 0x3FDFF141205BC01A 0 0 false false = .ok [0x31] := by decide +kernel

/-- 0.499 does not exceed RND_THRESH. -/
theorem test_encode_at_threshold : encodeValue 0x3FDFEF9DB22D0E56 0 0 false false = .ok [0x30] := by decide +kernel

/-- 0.9999999996. -/
theorem test_encode_carry : encodeValue 0x3FEFFFFFFFC90640 9 0 false false = .ok [0x31] := by decide +kernel

theorem test_encode_negative_zero : encodeValue 0x8000000000000000 6 0 false true = .ok [0x2B, 0x30] := by decide +kernel

theorem test_encode_subnormal : encodeValue 0x0000000000000001 9 0 true true = .ok [0x2B, 0x30, 0x2E, 0x30, 0x30, 0x30, 0x30, 0x30, 0x30, 0x30, 0x30, 0x30] := by decide +kernel

/-- 123.456 in 5 bytes: budget 1. -/
theorem test_encode_shrinks : encodeValue 0x405EDD2F1A9FBE77 6 5 false false = .ok [0x31, 0x32, 0x33, 0x2E, 0x35] := by decide +kernel

/-- 123.456 in 3 bytes. -/
theorem test_encode_overflow : encodeValue 0x405EDD2F1A9FBE77 6 3 false false = .overflow := by decide +kernel

/-- -99.6 in 3 bytes, R121 (a). -/
theorem test_encode_exception_shape_a : encodeValue 0xC058E66666666666 0 3 false false = .ok [0x2D, 0x31, 0x30, 0x30] := by decide +kernel

/-- 9.96 in 3 bytes, R121 (b). -/
theorem test_encode_exception_shape_b : encodeValue 0x4023EB851EB851EC 1 3 true false = .ok [0x31, 0x30, 0x2E, 0x30] := by decide +kernel

/-- Large path, tie, even. -/
theorem test_encode_large_tie : encodeValue 0xC1F0000000080000 0 0 false false = .ok [0x2D, 0x34, 0x32, 0x39, 0x34, 0x39, 0x36, 0x37, 0x32, 0x39, 0x36] := by decide +kernel

/-- 1e20. -/
theorem test_encode_large : encodeValue 0x4415AF1D78B58C40 2 0 true false = .ok [0x31, 0x30, 0x30, 0x30, 0x30, 0x30, 0x30, 0x30, 0x30, 0x30, 0x30, 0x30, 0x30, 0x30, 0x30, 0x30, 0x30, 0x30, 0x30, 0x30, 0x30, 0x2E, 0x30, 0x30] := by decide +kernel

theorem test_encode_infinity : encodeValue 0xFFF0000000000000 6 0 false true = .overflow := by decide +kernel

/-! ### binary64: what IEEE 754 gives, which R8 names -/

/-- (-0.0) - (+0.0) is -0.0, which ENCODE(-0.0) computes; 1 - (+inf) is -inf; 0 * (-1) is -0.0. -/
theorem test_zeros_and_infinities :
    F64.sub 0x8000000000000000 0 = 0x8000000000000000 ∧ F64.sub 0x3FF0000000000000 0x7FF0000000000000 = 0xFFF0000000000000 ∧
    F64.mul 0 0xBFF0000000000000 = 0x8000000000000000 := by decide +kernel

/-- `trunc` goes toward zero: -1.5 to -1, 1.5 to 1. -/
theorem test_trunc : F64.trunc 0xBFF8000000000000 = -1 ∧ F64.trunc 0x3FF8000000000000 = 1 := by decide +kernel

/-- The value a text stands for. -/
theorem test_read_field : readField [0x2D, 0x30, 0x2E, 0x32, 0x35] = some (-1 / 4) ∧ readField [0x2B] = none ∧
    readField nanToken = none := by decide +kernel

/-! ### PACK, storage, reset, steps -/

/-- `PACK([12345.5, 12345.5], 0, 9, 12)` in both readings of the equality case. -/
theorem test_pack_equality_case :
    pack 2 true [0x40C81CC000000000, 0x40C81CC000000000] 0 9 12 =
      some [[0x2B, 0x31, 0x32, 0x33, 0x34, 0x36], [0x2B, 0x31, 0x32, 0x33, 0x34, 0x36]] ∧
    pack 2 false [0x40C81CC000000000, 0x40C81CC000000000] 0 9 12 =
      some [[0x2B, 0x31, 0x32, 0x33, 0x34, 0x36, 0x2B, 0x31, 0x32, 0x33, 0x34, 0x36], []] := by decide +kernel

/-- A line is closed for good: a later field that would fit it does not go back (R143). -/
theorem test_pack_never_returns :
    pack 3 true [0x3FF0000000000000, 0x40F869F000000000, 0x3FF0000000000000] 0 9 7 =
      some [[0x2B, 0x31], [0x2B, 0x39, 0x39, 0x39, 0x39, 0x39], [0x2B, 0x31]] := by decide +kernel

/-- Writing the erased byte removes the entry: equal memories are equal data. -/
theorem test_storage_canonical : Memory.write (Memory.write [(1, 0x31)] 3 0x35) 1 0xFF = [(3, 0x35)] := by decide

/-- P3 of 95_test_vectors.md: reset 2 reads the stored address, reset 1 does not. -/
theorem test_reset_reads_storage :
    resetAddress [(3, 0x35)] { slot := some 3, initialAddress := 0x30 } = 0x35 ∧
    resetAddress [] { slot := some 3, initialAddress := 0x30 } = 0x30 ∧
    resetAddress [] { slot := none, initialAddress := 0x24 } = 0x30 := by decide

/-- P2 of 95_test_vectors.md: the record that cancelled is retained and served by the next step. -/
theorem test_retained_record :
    ((after 0x305000000000 (state [env (some v8) false false [0x301000000000]])).map (·.pending)) =
      some [0x301000000000] := by decide +kernel

/-- A line beyond LINE_SLOTS is refused (R146). -/
theorem test_slots_exhausted :
    refusalOf 0x304000000000 { quiet with cfg := { config with lineSlots := 2 } } =
      some (.lineSlotsExhausted 0) := by decide +kernel

/-- P5 of 95_test_vectors.md: a second activation is a contract violation (R236). -/
theorem test_contract_violation :
    faultOf 0x301000000000 { quiet with registry := some 0 } = some (.contractViolation 0) := by decide

/-- The two acknowledgements of a run are dispatched and it is over; before that it is not (R274). -/
theorem test_run_ends :
    (State.start config [] [.record 0x301000000000, .record 0x311000000000] []).over = false ∧
    (match runSteps 2 (State.start config [] [.record 0x301000000000, .record 0x311000000000] []) with
      | .next t => t.over && decide (t.trace = [.forceListen, .send [0x30, 0x0D, 0x0A], .forceListen])
      | .fault _ => false
      | .refused _ => false) = true := by decide

/-! ### Witnesses: for every obligation with hypotheses, a concrete state and operands that meet them, clause by clause -/

/-- The state with an input that waits. -/
def waiting (inputs : List Input) : State := { state [] with inputs := inputs }

/-- A device that a Poll holds (R255). -/
def held : State :=
  { state [] with devices := [{ device with active := true, state := .measurement }], blocked := true }

theorem lawful_of_nil {s : State} (h : s.inputs = []) : s.Lawful := by
  intro i hi
  rw [h] at hi
  cases hi

theorem devices_one {envs : List Env} {d : Nat} {dev : Device} (h : (state envs).devices[d]? = some dev) :
    d = 0 ∧ dev = device := by
  cases d with
  | zero => exact ⟨rfl, (Option.some.inj h).symm⟩
  | succ d => cases h

theorem state_quiescent (envs : List Env) : (state envs).Quiescent :=
  ⟨rfl, rfl, fun dev h => by rw [List.mem_singleton.mp h]; exact ⟨rfl, .inl rfl⟩⟩

theorem state_wf (envs : List Env) : (state envs).Wf :=
  ⟨fun dev h => by rw [List.mem_singleton.mp h]; exact ⟨rfl, rfl⟩, rfl, rfl, fun _ h => nomatch h⟩

theorem state_served (envs : List Env) (a : Byte) (h : device.takes a = true) : Served (state envs) a 0 device :=
  ⟨⟨rfl, rfl⟩, rfl, h, fun _ _ hk ho => (hk (devices_one ho).1).elim⟩

theorem witness_DecodeOfEncodeIsIdentity :
    WellFormed (.unknown 0x30 2 7 0xFFFF 1) = true ∧ WellFormed (.verify 0x3F .crc 0xFFFF 0xFFFF) = true := by decide

theorem witness_ResetLeavesEveryRegister :
    config.devices[0]? = some { slot := some 3, initialAddress := 0x30 } ∧
    (∀ k, (some 3 : Option Nat) = some k → alphanumeric (Memory.read [(3, 0x7A)] k) = true) ∧
    (∀ k, (some 3 : Option Nat) = some k → alphanumeric (Memory.read [] k) = false) ∧
    (∀ k, (none : Option Nat) = some k → alphanumeric (Memory.read [] k) = false) := by
  refine ⟨rfl, ?_, ?_, ?_⟩ <;> intro k hk <;> cases hk <;> decide

theorem witness_ResetMeetsTheInvariants : Memory.wf [(0, 0x35), (3, 0x7A)] = true := by decide

theorem witness_StepKeepsStateWellFormed : (state []).Wf ∧ (state []).Lawful ∧ step (state []) = .next (state []) :=
  ⟨state_wf [], lawful_of_nil rfl, rfl⟩

theorem held_by : held.HeldBy 0 := by
  refine ⟨rfl, ⟨_, rfl, rfl, nofun, nofun⟩, ?_, .inl rfl⟩
  intro k dev hk hd
  cases k with
  | zero => exact (hk rfl).elim
  | succ k => cases hd

theorem witness_StepKeepsTheQuiescentPoint :
    ((state []).Settled ∧ (state []).Lawful ∧ step (state []) = .next (state [])) ∧
    (held.Settled ∧ held.Lawful ∧ step held = .next held) ∧
    ((∀ i ∈ [Input.malformed], i.forbidden = false) ∧
      RunEnds (State.start config [] [.malformed] []) (State.start config [] [] [])) :=
  ⟨⟨.inl (state_quiescent []), lawful_of_nil rfl, rfl⟩, ⟨.inr ⟨0, held_by⟩, lawful_of_nil rfl, rfl⟩,
    fun i h => by rw [List.mem_singleton.mp h]; rfl, 1, rfl, rfl⟩

theorem witness_StepKeepsAtMostOneActive : held.OneActive ∧ held.Lawful ∧ step held = .next held := by
  refine ⟨?_, lawful_of_nil rfl, rfl⟩
  intro d k v w hv hw _ _
  cases d with
  | zero => cases k with
    | zero => rfl
    | succ k => cases hw
  | succ d => cases hv

theorem witness_StepKeepsLinesBelowLongCap :
    (state []).cfg.packStrict = true ∧ 0 < (state []).cfg.fieldCap.toNat ∧ (state []).cfg.fieldCap.toNat + 1 < 35 ∧
    (state []).LinesBelow 75 ∧ step (state []) = .next (state []) := by
  refine ⟨rfl, by decide, by decide, ?_, rfl⟩
  intro dev h
  rw [List.mem_singleton.mp h]
  decide

theorem witness_LawfulTrafficNeverViolatesTheContract :
    (waiting [.setLowPower 0]).Settled ∧ (waiting [.setLowPower 0]).Lawful := by
  refine ⟨.inl ⟨rfl, rfl, (state_quiescent []).devices⟩, ?_⟩
  intro i h
  rw [List.mem_singleton.mp h]
  rfl

theorem witness_StepRunsTheDecodedRecord :
    (({ waiting [.malformed] with pending := [0x301000000000, 0x30C000000000] }).blocked = false) ∧
    ((waiting [.record 0x301000000000]).blocked = false ∧ (waiting [.record 0x301000000000]).pending = [] ∧
      (waiting [.record 0x301000000000]).inputs = [.record 0x301000000000]) := by decide

theorem witness_StepBetweenCommands :
    held.blocked = true ∧ (waiting []).inputs = [] ∧ (waiting []).blocked = false ∧ (waiting []).pending = [] ∧
    (waiting [.malformed]).inputs = [.malformed] ∧ (waiting [.framingError]).inputs = [.framingError] ∧
    (waiting [.setLowPower 0]).devices[0]? = some device ∧ (waiting [.setReady 0]).devices[0]? = some device ∧
    (waiting [.setAddress 0 0x24]).inputs = [.setAddress 0 0x24] ∧ alphanumeric 0x24 = false ∧
    (waiting [.setAddress 0 0x7A]).inputs = [.setAddress 0 0x7A] ∧ alphanumeric 0x7A = true ∧
    (waiting [.forceRegistry (some 7)]).inputs = [.forceRegistry (some 7)] ∧
    (waiting [.forceActive 0 true]).devices[0]? = some device ∧
    (waiting [.setReady 1]).devices.length ≤ 1 ∧
    Input.setReady 1 ∈ [Input.setLowPower 1, .setReady 1, .forceActive 1 true, .setAddress 1 0x7A] := by decide

theorem witness_UntakenCommandIsIgnored : ∀ dev ∈ (state []).devices, dev.takes (Instr.address (.ack 0x31 0 0)) = false := by
  decide

/-- The device in LowPower. -/
def asleep : State := { state [] with devices := [{ device with state := .lowPower }] }

theorem witness_LowPowerDeviceIsInert :
    exec (.ack 0x30 0 0) asleep = .next asleep ∧ asleep.devices[0]? = some { device with state := .lowPower } ∧
    ∀ dev ∈ asleep.devices, dev.state = .lowPower :=
  ⟨rfl, rfl, by decide⟩

/-- The registry still names the device: the host wrote it (U23). -/
def claimedState : State := { state [] with registry := some 0 }

theorem witness_ClaimedMatchRaisesContractViolation :
    (Instr.ack 0x3F 0 0).mclass ≠ .unknown ∧ claimedState.blocked = false ∧ claimedState.claimed = true ∧
    claimedState.devices[0]? = some device ∧ device.takes (Instr.address (.ack 0x3F 0 0)) = true ∧
    ∀ k other, k < 0 → claimedState.devices[k]? = some other → other.takes 0x3F = false :=
  ⟨nofun, rfl, rfl, rfl, by decide, fun _ _ hk => nomatch hk⟩

theorem witness_EveryCommandReturnsToReady :
    quiet.Quiescent ∧ numValues < quiet.cfg.lineSlots ∧ quiet.devices.length ≤ quiet.envs.length ∧
    ∀ e ∈ quiet.envs, e.vals.isSome = true :=
  ⟨state_quiescent _, by decide, by decide, fun e h => by rw [List.mem_singleton.mp h]; rfl⟩

theorem witness_CompletedCycleRearmsReception :
    (∃ t, exec (.aqry 0x3F 0 0) quiet = .next t ∧ t.blocked = false) ∧
    ∃ t, exec (.aqry 0x31 0 0) quiet = .next t ∧ t.blocked = false :=
  ⟨⟨_, rfl, rfl⟩, ⟨_, rfl, rfl⟩⟩

/-- The hypothesis of the statements about commands answered at once. -/
theorem witness_Open : quiet.Open := ⟨rfl, rfl⟩

theorem witness_AddressReplyOfQueryAndAcknowledge : quiet.Open := witness_Open

theorem witness_IdentityReply : quiet.Open := witness_Open

theorem witness_SetAddressMutatesAlphanumericOnly :
    quiet.devices[0]? = some device ∧ alphanumeric 0x24 = false ∧ alphanumeric 0x5A = true ∧
    alphanumeric 0x5B = false := by decide

/-- Both clauses at their boundaries: `param1` 0x7A and 0xFF within a byte, 0x100 and 0x17A beyond it. -/
theorem witness_AddressChangeReply :
    quiet.Open ∧ acceptedAddress 0x7A = some 0x7A ∧ acceptedAddress 0xFF = none ∧ acceptedAddress 0x100 = none ∧
    acceptedAddress 0x17A = none :=
  ⟨witness_Open, by decide, by decide, by decide, by decide⟩

/-- Both clauses where they meet: slot 9 and slot 10 of ten. -/
theorem witness_DataRequestReply :
    quiet.Open ∧ (9 : BitVec 16).toNat < quiet.cfg.lineSlots ∧ quiet.cfg.lineSlots ≤ (10 : BitVec 16).toNat :=
  ⟨witness_Open, by decide, by decide⟩

theorem witness_ByteDataReply : quiet.Open := witness_Open

theorem witness_UnknownIsRejected : claimedState.blocked = false := rfl

theorem witness_ProbeAnswersOnlyTheToken : quiet.Open := witness_Open

theorem witness_ContinuousAndVerifyProbes : quiet.Open := witness_Open

theorem witness_VerifyClearsTheLines : quiet.Open := witness_Open

theorem witness_UnsupportedIndexClearsTheLines : quiet.Open ∧ (1 : BitVec 16) ≠ 0 ∧ (0xFFFF : BitVec 16) ≠ 0 :=
  ⟨witness_Open, by decide, by decide⟩

theorem quiet_served : Served quiet 0x30 0 device := state_served _ _ (by decide)

theorem witness_MeasurementPacksAndNotifies :
    Served quiet 0x30 0 device ∧ quiet.nextEnv.vals = some v8 ∧ quiet.nextEnv.lb = false ∧
    quiet.nextEnv.deact = false ∧
    pack quiet.cfg.lineSlots quiet.cfg.packStrict v8.toList 6 quiet.cfg.fieldCap 35 = some l35 :=
  ⟨quiet_served, rfl, rfl, rfl, by decide +kernel⟩

/-- By a line break, and by a deactivation without one. -/
theorem witness_MeasurementCancelled :
    (Served (state [env (some v8) true false []]) 0x30 0 device ∧
      (state [env (some v8) true false []]).nextEnv.lb = true) ∧
    (Served (state [env (some v8) false true []]) 0x3F 0 device ∧
      (state [env (some v8) false true []]).nextEnv.vals.isSome = true ∧
      (state [env (some v8) false true []]).nextEnv.deact = true) :=
  ⟨⟨state_served _ _ (by decide), rfl⟩, ⟨state_served _ _ (by decide), rfl, rfl⟩⟩

/-- The command `1!` does not match the device. -/
theorem other_command (w : Record) (h : w ∈ [(0x314000000000 : Record)]) :
    device.matches (Record.address w) = false := by
  rw [List.mem_singleton.mp h]
  decide

/-- A drained command for another device cancels nothing. -/
theorem witness_ReleaseMeasurementPacks :
    Served (state [env (some v8) true true [0x314000000000]]) 0x30 0 device ∧
    (state [env (some v8) true true [0x314000000000]]).nextEnv.vals = some v8 ∧
    (∀ w ∈ (state [env (some v8) true true [0x314000000000]]).nextEnv.newcmds,
      device.matches (Record.address w) = false) ∧
    pack config.lineSlots config.packStrict v8.toList 6 config.fieldCap 75 = some (line75 :: List.replicate 9 []) :=
  ⟨state_served _ _ (by decide), rfl, other_command, by decide +kernel⟩

theorem witness_ReleaseMeasurementCancelled :
    Served (state [env (some v8) false false [0x3F0000000000]]) 0x30 0 device ∧
    (state [env (some v8) false false [0x3F0000000000]]).nextEnv.vals.isSome = true ∧
    ∃ w ∈ (state [env (some v8) false false [0x3F0000000000]]).nextEnv.newcmds,
      device.matches (Record.address w) = true :=
  ⟨state_served _ _ (by decide), rfl, 0x3F0000000000, by decide, by decide⟩

theorem witness_HighVolumeByteEmptiesTheLines : Served quiet 0x30 0 device ∧ quiet.nextEnv.vals.isSome = true :=
  ⟨quiet_served, rfl⟩

/-- Both clauses where they meet: value 8 and index 9. -/
theorem witness_ContinuousSendsOneValue :
    Served quiet 0x30 0 device ∧ quiet.nextEnv.vals = some v8 ∧
    v8.toList[(8 : BitVec 16).toNat]? = some 0xBFBC71C717AC1923 ∧ 9 ≤ (9 : BitVec 16).toNat :=
  ⟨quiet_served, rfl, by decide, by decide⟩

theorem witness_BlockedPollHoldsTheEngine :
    Served (state [env none false false []]) 0x30 0 device ∧ (state [env none false false []]).nextEnv.vals = none :=
  ⟨state_served _ _ (by decide), rfl⟩

theorem nothing_drained (w : Record) (h : w ∈ ([] : List Record)) : device.matches (Record.address w) = false := by
  cases h

/-- A configuration without a line slot: no values fit. -/
def slotless : State := { quiet with cfg := { config with lineSlots := 0 } }

theorem witness_PackingBeyondTheSlotsIsRefused :
    Served slotless 0x30 0 device ∧ slotless.nextEnv.vals = some v8 ∧ slotless.nextEnv.lb = false ∧
    slotless.nextEnv.deact = false ∧
    pack slotless.cfg.lineSlots slotless.cfg.packStrict v8.toList 6 slotless.cfg.fieldCap 35 = none ∧
    pack slotless.cfg.lineSlots slotless.cfg.packStrict v8.toList 6 slotless.cfg.fieldCap 75 = none ∧
    (∀ w ∈ slotless.nextEnv.newcmds, device.matches (Record.address w) = false) ∧ v8.toList.length < 10 :=
  ⟨⟨⟨rfl, rfl⟩, rfl, by decide, quiet_served.alone⟩, rfl, rfl, rfl, by decide +kernel, by decide +kernel,
    nothing_drained, by simp⟩

theorem witness_StepLeavesTheConfiguration : step (state []) = .next (state []) := rfl

theorem witness_StorageIsWrittenOnlyByAddressChange :
    ((Instr.ack 0x30 0 0).mclass ≠ .addressChange ∧ ∃ t, exec (.ack 0x30 0 0) quiet = .next t) ∧
    (quiet.storage.wf = true ∧ (∃ t, exec (.achg 0x30 0x7A 0) quiet = .next t) ∧ acceptedAddress 0x7A ≠ none ∧
      ∀ dev ∈ quiet.devices, dev.takes 0x30 = true → dev.storageSlot ≠ some 4) ∧
    ((∃ t, exec (.achg 0x30 0x24 0) quiet = .next t) ∧ acceptedAddress 0x24 = none) :=
  ⟨⟨nofun, _, rfl⟩, ⟨rfl, ⟨_, rfl⟩, by decide, by decide⟩, ⟨_, rfl⟩, by decide⟩

theorem witness_LinesAreWrittenOnlyByMeasurements :
    (∃ t, exec (.identM 0x30 0 0) quiet = .next t) ∧ (Instr.identM 0x30 0 0).isProbe = true ∧
    (∃ t, exec (.cont 0x30 .plain 0 0) quiet = .next t) ∧
    (Instr.cont 0x30 .plain 0 0).mclass = .continuousMeasurement ∧
    (∃ t, exec (.data 0x30 .plain 0 0) quiet = .next t) ∧
    (Instr.data 0x30 .plain 0 0).mclass.measurementClass = false :=
  ⟨⟨_, rfl⟩, rfl, ⟨_, rfl⟩, rfl, ⟨_, rfl⟩, rfl⟩

theorem witness_AddressesAreWrittenOnlyByAddressChange :
    ∃ t w, exec (.achg 0x30 0x7A 0) quiet = .next t ∧ quiet.devices[0]? = some device ∧ t.devices[0]? = some w :=
  ⟨_, _, rfl, rfl, rfl⟩

theorem witness_CommandLeavesTheQueues :
    (∃ t, exec (.identV 0x30 0 0) quiet = .next t) ∧ (Instr.identV 0x30 0 0).isProbe = true ∧
    (∃ t, exec (.verify 0x30 .plain 0 0) quiet = .next t) ∧ (Instr.verify 0x30 .plain 0 0).mclass = .verification ∧
    (Instr.ack 0x30 0 0).mclass.measurementClass = false :=
  ⟨⟨_, rfl⟩, rfl, ⟨_, rfl⟩, rfl, rfl⟩

/-- 2^53 - 1; -1.5 and 1.5; and 2147483646.9, whose integer part is below 2^53. -/
theorem witness_IntegerPartArithmeticIsExact :
    9007199254740991 < 2 ^ 53 ∧ F64.sign 0xBFF8000000000000 = true ∧ F64.sign 0x3FF8000000000000 = false ∧
    F64.sign 0x41DFFFFFFFB9999A = false ∧ F64.integerPart 0x41DFFFFFFFB9999A < 2 ^ 53 := by
  decide +kernel

/-- Every clause: 1/8; 0.1 and 0.3, whose difference and product are finite; the two zeros; a NaN; an infinity beside 1.0,
beside itself and beside a zero. -/
theorem witness_RoundingIsToNearest :
    (F64.exponent (F64.roundMag 1 3) < 2047 ∧ F64.exponent 0x3FF0000000000000 < 2047) ∧
    (F64.exponent 0x3FB999999999999A < 2047 ∧ F64.exponent 0x3FD3333333333333 < 2047 ∧
      F64.exponent (F64.sub 0x3FB999999999999A 0x3FD3333333333333) < 2047 ∧
      F64.exponent (F64.mul 0x3FB999999999999A 0x3FD3333333333333) < 2047 ∧
      F64.toInt 0x8000000000000000 = F64.toInt 0) ∧
    F64.isNaN 0x7FF8000000000001 = true ∧
    (F64.isInf 0xFFF0000000000000 = true ∧ F64.isNaN 0xFFF0000000000000 = false ∧ F64.isNaN 0x8000000000000000 = false ∧
      F64.exponent 0x8000000000000000 < 2047) := by decide +kernel

theorem witness_NaNAndInfinityOverflow :
    F64.isNaN 0x7FF8000000000000 = true ∧ F64.isNaN 0xFFF0000000000001 = true ∧ F64.isInf 0xFFF0000000000000 = true := by
  decide

theorem witness_PrecisionIsClamped :
    9 ≤ (9 : BitVec 8).toNat ∧ 9 ≤ (255 : BitVec 8).toNat ∧
    F64.isNaN 0xBFC0000000000000 = false ∧ F64.isInf 0xBFC0000000000000 = false := by decide

theorem witness_OverflowExactlyWhenIntegralDigitsReachTheCap :
    F64.isNaN 0x405EDD2F1A9FBE77 = false ∧ F64.isInf 0x405EDD2F1A9FBE77 = false := by decide

theorem witness_PrecisionShrinksToTheBudget :
    2 < 3 ∧ (0 < 5 ∧ 5 ≤ 9 ∧ fitPrecision 5 3 6 false = some 1) ∧ (3 < 8 ∧ 3 + 3 + 2 ≤ 8) := by decide

theorem witness_SignComesFromTheInput :
    encodeValue 0xBFA47AE147AE147B 1 0 false false = .ok [0x2D, 0x30] ∧
    encodeValue 0x3FE0000000000000 0 0 false true = .ok [0x2B, 0x30] := by decide +kernel

/-- Both clauses: the tie 0.5, and 0.499 itself. -/
theorem witness_TieRoundsToEvenElseThreshold :
    (F64.exponent 0x3FE0000000000000 < 2047 ∧ F64.sign 0x3FE0000000000000 = false ∧
      2 * F64.scaled 0x3FE0000000000000 = F64.unit) ∧
    (F64.exponent 0x3FDFEF9DB22D0E56 < 2047 ∧ F64.sign 0x3FDFEF9DB22D0E56 = false ∧
      2 * F64.scaled 0x3FDFEF9DB22D0E56 ≠ F64.unit) := by decide +kernel

/-- The next value above 2147483647, the smallest of the large path. -/
theorem witness_LargePathIsCorrectlyRounded :
    encodeValue 0xC1DFFFFFFFC00001 9 0 false false =
      .ok [0x2D, 0x32, 0x31, 0x34, 0x37, 0x34, 0x38, 0x33, 0x36, 0x34, 0x37, 0x2E, 0x30, 0x30, 0x30, 0x30, 0x30, 0x30, 0x32,
        0x33, 0x38] ∧
    F64.lt bigThresh (magnitude 0xC1DFFFFFFFC00001) = true := by decide +kernel

/-- 2147483647 itself, the largest magnitude of the fast path. -/
theorem witness_FastPathRoundTrip :
    (encodeValue 0xC1DFFFFFFFC00000 9 0 false false =
        .ok [0x2D, 0x32, 0x31, 0x34, 0x37, 0x34, 0x38, 0x33, 0x36, 0x34, 0x37] ∧
      F64.lt bigThresh (magnitude 0xC1DFFFFFFFC00000) = false) ∧
    9 ≤ 9 ∧ F64.sign 0x41DFFFFFFFC00000 = false ∧ F64.isNaN 0x41DFFFFFFFC00000 = false ∧
    F64.lt bigThresh 0x41DFFFFFFFC00000 = false := by decide +kernel

theorem witness_StripRemovesExactlyTrailingZeros :
    1230 < 10 ^ 4 ∧ 0 < (strip 4 1230).2 ∧ 0 < 10 ^ 0 ∧ (strip 2 0).2 = 0 := by decide

theorem witness_DecimalNumerals :
    (dec 0).head? = some 0x30 ∧ 0 < 10 ∧ 0 < 1 ∧ 9 < 10 ^ 1 ∧ 0 < 10 ^ 1 := by decide

theorem witness_DigitBufferReversalIsTheText :
    5 < 10 ^ 3 ∧ 0 < 10 ^ 0 ∧ encodeValue 0x3FD0000000000000 1 0 false false = .ok [0x30, 0x2E, 0x32] := by decide +kernel

/-- Every clause: within the cap, shape (a), shape (b), no cap on the fast path and on the large path. -/
theorem witness_FieldLengthBound :
    encodeValue 0x405EDD2F1A9FBE77 6 9 false true = .ok [0x2B, 0x31, 0x32, 0x33, 0x2E, 0x34, 0x35, 0x36] ∧
    encodeValue 0xC058E66666666666 0 3 false false = .ok [0x2D, 0x31, 0x30, 0x30] ∧
    encodeValue 0x4023EB851EB851EC 1 3 true false = .ok [0x31, 0x30, 0x2E, 0x30] ∧
    encodeValue 0x3FE0000000000000 0 0 false true = .ok [0x2B, 0x30] ∧ F64.lt bigThresh 0x3FE0000000000000 = false ∧
    encodeValue 0x41F0000000100000 0 0 false false =
      .ok [0x34, 0x32, 0x39, 0x34, 0x39, 0x36, 0x37, 0x32, 0x39, 0x37] := by decide +kernel

theorem witness_PackIsFirstFit : pack 10 true v8.toList 6 9 35 = some l35 := by decide +kernel

/-- The fields of V8 stand in 95_test_vectors.md 2.2. -/
theorem witness_PackedLinesStayUnderTheCap :
    pack 10 true v8.toList 6 9 35 = some l35 ∧ 0 < 35 ∧
    (∀ v ∈ v8.toList, (encodeValue v 6 9 false true).text.length < 35) ∧ 0 < 1 := by
  have texts : v8.toList.map (fun v => (encodeValue v 6 9 false true).text) = [
      [0x2B, 0x31, 0x2E, 0x31], [0x2D, 0x32, 0x2E, 0x32, 0x32],
      [0x2B, 0x33, 0x2E, 0x33, 0x33, 0x33], [0x2D, 0x34, 0x2E, 0x34, 0x34, 0x34, 0x34],
      [0x2B, 0x35, 0x2E, 0x35, 0x35, 0x35, 0x35, 0x35], [0x2D, 0x36, 0x2E, 0x36, 0x36, 0x36, 0x36, 0x36, 0x36],
      [0x2B, 0x37, 0x38, 0x2E, 0x37, 0x37, 0x37, 0x37, 0x38],
      [0x2D, 0x38, 0x39, 0x30, 0x2E, 0x38, 0x38, 0x38, 0x39],
      [0x2D, 0x30, 0x2E, 0x31, 0x31, 0x31, 0x31, 0x31, 0x31]] := by
    decide +kernel
  refine ⟨by decide +kernel, by decide, fun v hv => ?_, by decide⟩
  have hmem := List.mem_map_of_mem (f := fun v => (encodeValue v 6 9 false true).text) hv
  rw [texts] at hmem
  exact (by decide : ∀ t ∈ ([
      [0x2B, 0x31, 0x2E, 0x31], [0x2D, 0x32, 0x2E, 0x32, 0x32],
      [0x2B, 0x33, 0x2E, 0x33, 0x33, 0x33], [0x2D, 0x34, 0x2E, 0x34, 0x34, 0x34, 0x34],
      [0x2B, 0x35, 0x2E, 0x35, 0x35, 0x35, 0x35, 0x35], [0x2D, 0x36, 0x2E, 0x36, 0x36, 0x36, 0x36, 0x36, 0x36],
      [0x2B, 0x37, 0x38, 0x2E, 0x37, 0x37, 0x37, 0x37, 0x38],
      [0x2D, 0x38, 0x39, 0x30, 0x2E, 0x38, 0x38, 0x38, 0x39],
      [0x2D, 0x30, 0x2E, 0x31, 0x31, 0x31, 0x31, 0x31, 0x31]] : List Bytes), t.length < 35) _ hmem

end Sys2Proof.Tests
end

section
/-! PROOFS. Scope family, O44: what a command leaves of the inputs, the answers and the retained records (00_scope.md R10,
60_exceptions.md R239). -/

namespace Sys2Proof.Machine

/-- How the state `t` after a part of instruction `i` may differ from the state `s` before it in the fields that are no
device's register. -/
structure QueuesKept (i : Instr) (s t : State) : Prop where
  inputs : t.inputs = s.inputs
  hostResult : t.hostResult = s.hostResult
  trace : s.trace <+: t.trace
  pending : s.pending <+: t.pending
  quiet : i.isProbe = true ∨ i.mclass.measurementClass = false ∨ i.mclass = .verification →
    t.pending = s.pending ∧ t.envs = s.envs ∧ t.drawn = s.drawn ∧ t.blocked = s.blocked

theorem QueuesKept.refl (i : Instr) (s : State) : QueuesKept i s s :=
  ⟨rfl, rfl, ⟨[], List.append_nil _⟩, ⟨[], List.append_nil _⟩, fun _ => ⟨rfl, rfl, rfl, rfl⟩⟩

theorem QueuesKept.trans {i : Instr} {s u t : State} (hsu : QueuesKept i s u) (hut : QueuesKept i u t) :
    QueuesKept i s t where
  inputs := hut.inputs.trans hsu.inputs
  hostResult := hut.hostResult.trans hsu.hostResult
  trace := hsu.trace.trans hut.trace
  pending := hsu.pending.trans hut.pending
  quiet hq := by
    obtain ⟨hp, he, hd, hb⟩ := hsu.quiet hq
    obtain ⟨hp', he', hd', hb'⟩ := hut.quiet hq
    exact ⟨hp'.trans hp, he'.trans he, hd'.trans hd, hb'.trans hb⟩

/-- A rejection reply only extends the trace (R172). -/
theorem queuesKept_reject (i : Instr) (u : State) (d : Nat) : QueuesKept i u (u.reject d) := by
  rw [State.reject_eq]
  exact ⟨rfl, rfl, ⟨_, rfl⟩, ⟨[], List.append_nil _⟩, fun _ => ⟨rfl, rfl, rfl, rfl⟩⟩

theorem CycleResult.queuesKept {i : Instr} {u t : State} {d : Nat} {dev dev' : Device} {effs : List Effect}
    (h : CycleResult i u t d dev dev' effs) : QueuesKept i u t := by
  obtain ⟨cmds, hcmds⟩ := h.pending
  exact ⟨h.inputs, h.hostResult, ⟨effs, h.trace.symm⟩, ⟨cmds, hcmds.symm⟩, h.quiet⟩

theorem exec_queuesKept {i : Instr} {s t : State} (h : exec i s = .next t) : QueuesKept i s t :=
  exec_keeps i (QueuesKept i s) (fun d u hu _ _ => hu.trans (queuesKept_reject i u d))
    (fun _ _ _ _ _ _ hu _ _ _ _ hres => hu.trans hres.queuesKept) (QueuesKept.refl i s) h

/-- Settles O44: every part of a command only extends the queues, and so does the whole command. -/
theorem commandLeavesTheQueues : Obligations.CommandLeavesTheQueues := by
  unfold Obligations.CommandLeavesTheQueues
  intro i s t h
  obtain ⟨hinputs, hhost, ⟨effs, htrace⟩, ⟨cmds, hpending⟩, hquiet⟩ := exec_queuesKept h
  exact ⟨hinputs, hhost, ⟨effs, htrace.symm⟩, ⟨cmds, hpending.symm⟩, hquiet⟩

end Sys2Proof.Machine
end

section
/-! PROOFS. Scope family: the bits of a binary64 read as numbers, and the rounding of 00_scope.md R8 (log entry 16). -/

namespace Sys2Proof.Machine

/-! ### The fields of a binary64 as numbers -/

theorem F64.exponent_eq (v : F64) : F64.exponent v = v.toNat / 2 ^ 52 % 2 ^ 11 := by
  simp [F64.exponent, Nat.shiftRight_eq_div_pow]

theorem F64.fraction_eq (v : F64) : F64.fraction v = v.toNat % 2 ^ 52 := by
  simp [F64.fraction]

theorem F64.fraction_lt (v : F64) : F64.fraction v < 2 ^ 52 := (v.extractLsb' 0 52).isLt

theorem F64.sign_eq (v : F64) : F64.sign v = decide (2 ^ 63 ≤ v.toNat) := BitVec.msb_eq_decide v

/-- The number `bits` read as a magnitude up to +inf: its exponent, its fraction, sign plus. -/
theorem F64.fields_ofNat {bits : Nat} (h : bits ≤ 2047 * 2 ^ 52) :
    F64.exponent (BitVec.ofNat 64 bits) = bits / 2 ^ 52 ∧ F64.fraction (BitVec.ofNat 64 bits) = bits % 2 ^ 52 ∧
      F64.sign (BitVec.ofNat 64 bits) = false := by
  have hbits : (BitVec.ofNat 64 bits).toNat = bits := by
    rw [BitVec.toNat_ofNat, Nat.mod_eq_of_lt (by omega)]
  refine ⟨?_, ?_, ?_⟩
  · rw [F64.exponent_eq, hbits]; omega
  · rw [F64.fraction_eq, hbits]
  · rw [F64.sign_eq, hbits, decide_eq_false_iff_not]; omega

/-- A significand `sig` above the exponent field `w`: a `sig` of 2^53 carries into the exponent. -/
theorem F64.scaled_ofNat {w sig : Nat} (hlow : w = 0 ∨ 2 ^ 52 ≤ sig) (hhigh : sig ≤ 2 ^ 53)
    (hfin : w * 2 ^ 52 + sig < 2047 * 2 ^ 52) :
    F64.scaled (BitVec.ofNat 64 (w * 2 ^ 52 + sig)) = sig * 2 ^ w := by
  obtain ⟨he, hf, -⟩ := F64.fields_ofNat hfin.le
  unfold F64.scaled
  rw [he, hf]
  rcases Nat.lt_or_ge sig (2 ^ 52) with hsub | hnorm
  · obtain rfl : w = 0 := by omega
    rw [if_pos (by omega), Nat.pow_zero]; omega
  rcases Nat.lt_or_ge sig (2 ^ 53) with hlt | hcarry
  · rw [if_neg (by omega), show (w * 2 ^ 52 + sig) / 2 ^ 52 - 1 = w by omega,
      show 2 ^ 52 + (w * 2 ^ 52 + sig) % 2 ^ 52 = sig by omega]
  · obtain rfl : sig = 2 ^ 53 := by omega
    rw [if_neg (by omega), show (w * 2 ^ 52 + 2 ^ 53) / 2 ^ 52 - 1 = w + 1 by omega,
      show 2 ^ 52 + (w * 2 ^ 52 + 2 ^ 53) % 2 ^ 52 = 2 ^ 52 by omega, ← Nat.pow_add, ← Nat.pow_add,
      show 52 + (w + 1) = 53 + w by omega]

/-- Every magnitude is at most 53 bits above its last place. -/
theorem F64.scaled_shape (v : F64) :
    2 ^ (F64.exponent v - 1) ∣ F64.scaled v ∧ F64.scaled v < 2 ^ 53 * 2 ^ (F64.exponent v - 1) := by
  have hf := F64.fraction_lt v
  unfold F64.scaled
  split
  · rename_i he
    rw [he]
    exact ⟨Nat.one_dvd _, by omega⟩
  · exact ⟨Nat.dvd_mul_left _ _, Nat.mul_lt_mul_of_pos_right (by omega) (Nat.two_pow_pos _)⟩

/-- A normal magnitude has its leading bit 52 above its last place. -/
theorem F64.scaled_normal {v : F64} (h : F64.exponent v ≠ 0) : 2 ^ 52 * 2 ^ (F64.exponent v - 1) ≤ F64.scaled v := by
  rw [F64.scaled, if_neg h]
  exact Nat.mul_le_mul_right _ (Nat.le_add_right _ _)

/-- A magnitude is a multiple of 2^w, or it is below every normal one whose last place is 2^w. -/
theorem F64.scaled_grid (v : F64) (w : Nat) :
    2 ^ w ∣ F64.scaled v ∨ (w ≠ 0 ∧ F64.scaled v ≤ 2 ^ 52 * 2 ^ w) := by
  obtain ⟨hdvd, hlt⟩ := F64.scaled_shape v
  rcases Nat.lt_or_ge (F64.exponent v - 1) w with hw | hw
  · refine .inr ⟨by omega, hlt.le.trans ?_⟩
    rw [← Nat.pow_add, ← Nat.pow_add]
    exact Nat.pow_le_pow_right (by decide) (by omega)
  · exact .inl ((Nat.pow_dvd_pow 2 hw).trans hdvd)

/-! ### Signs -/

@[simp] theorem F64.exponent_neg (v : F64) : F64.exponent (F64.neg v) = F64.exponent v := by
  unfold F64.exponent F64.neg
  rw [BitVec.extractLsb'_xor]; simp

@[simp] theorem F64.fraction_neg (v : F64) : F64.fraction (F64.neg v) = F64.fraction v := by
  unfold F64.fraction F64.neg
  rw [BitVec.extractLsb'_xor]; simp

@[simp] theorem F64.sign_neg (v : F64) : F64.sign (F64.neg v) = !F64.sign v := by
  simp [F64.sign, F64.neg]

@[simp] theorem F64.exponent_withSign (b : Bool) (mag : F64) :
    F64.exponent (F64.withSign b mag) = F64.exponent mag := by
  cases b <;> simp [F64.withSign]

@[simp] theorem F64.fraction_withSign (b : Bool) (mag : F64) :
    F64.fraction (F64.withSign b mag) = F64.fraction mag := by
  cases b <;> simp [F64.withSign]

@[simp] theorem F64.scaled_withSign (b : Bool) (mag : F64) : F64.scaled (F64.withSign b mag) = F64.scaled mag := by
  simp [F64.scaled]

theorem F64.sign_withSign (b : Bool) {mag : F64} (h : F64.sign mag = false) : F64.sign (F64.withSign b mag) = b := by
  cases b <;> simp [F64.withSign, h]

theorem F64.toInt_withSign (b : Bool) {mag : F64} (h : F64.sign mag = false) :
    F64.toInt (F64.withSign b mag) = if b then -(F64.scaled mag : Int) else F64.scaled mag := by
  rw [F64.toInt, F64.sign_withSign b h, F64.scaled_withSign]

/-! ### Rounding half to even -/

/-- The rounded quotient is as near to `n / 2^s` as the integer below it and as the one above it. -/
theorem roundHalfEven_error (n s : Nat) :
    ((roundHalfEven n s : Int) * (2 ^ s : Nat) - n).natAbs ≤ n % 2 ^ s ∧
      ((roundHalfEven n s : Int) * (2 ^ s : Nat) - n).natAbs ≤ 2 ^ s - n % 2 ^ s := by
  have hdiv := Nat.div_add_mod' n (2 ^ s)
  have hlt := Nat.mod_lt n (Nat.two_pow_pos s)
  have hcast : ((n / 2 ^ s : Nat) : Int) * (2 ^ s : Nat) = (n / 2 ^ s * 2 ^ s : Nat) := by push_cast; ring
  unfold roundHalfEven
  generalize n / 2 ^ s * 2 ^ s = m at *
  generalize n % 2 ^ s = r at *
  generalize 2 ^ s = D at *
  dsimp only
  split
  · rw [Nat.cast_add, Nat.cast_one, Int.add_mul, hcast]; omega
  · rw [hcast]; omega

/-- No integer is nearer to `n / 2^s` than the rounded quotient. -/
theorem roundHalfEven_nearest (n s m : Nat) :
    ((roundHalfEven n s : Int) * (2 ^ s : Nat) - n).natAbs ≤ ((m : Int) * (2 ^ s : Nat) - n).natAbs := by
  obtain ⟨hdown, hup⟩ := roundHalfEven_error n s
  have hdiv := Nat.div_add_mod' n (2 ^ s)
  have hlt := Nat.mod_lt n (Nat.two_pow_pos s)
  rw [← Nat.cast_mul m]
  rcases Nat.lt_or_ge (n / 2 ^ s) m with hm | hm
  · have := Nat.mul_le_mul_right (2 ^ s) hm
    rw [Nat.succ_mul] at this
    omega
  · have := Nat.mul_le_mul_right (2 ^ s) hm
    omega

theorem roundHalfEven_bounds (n s : Nat) : n / 2 ^ s ≤ roundHalfEven n s ∧ roundHalfEven n s ≤ n / 2 ^ s + 1 := by
  unfold roundHalfEven
  dsimp only
  split <;> omega

/-- An exact quotient is not rounded. -/
theorem roundHalfEven_of_dvd {n s : Nat} (h : 2 ^ s ∣ n) : roundHalfEven n s * 2 ^ s = n := by
  have herr := (roundHalfEven_error n s).1
  rw [Nat.mod_eq_zero_of_dvd h, ← Nat.cast_mul] at herr
  omega

theorem roundHalfEven_mul_two_pow (n s c : Nat) : roundHalfEven (n * 2 ^ c) (s + c) = roundHalfEven n s := by
  have hc := Nat.two_pow_pos c
  have hdouble : 2 * (n % 2 ^ s * 2 ^ c) = 2 * (n % 2 ^ s) * 2 ^ c := (Nat.mul_assoc ..).symm
  simp only [roundHalfEven, Nat.pow_add, Nat.mul_div_mul_right _ _ hc, Nat.mul_mod_mul_right, hdouble,
    Nat.mul_lt_mul_right hc, Nat.mul_left_inj hc.ne']

/-! ### The rounding of a quotient to a binary64 -/

/-- The unit as a power whose exponent is a variable, so that no tactic evaluates it. -/
theorem F64.exists_unit_eq : ∃ u, u = 1074 ∧ F64.unit = 2 ^ u := ⟨1074, rfl, rfl⟩

/-- The exponent of the last place of `n / 2^k` above 2^-1074. -/
def F64.lastPlace (n k : Nat) : Nat := Nat.log2 n + 1022 - k

/-- `n / 2^k` in units of its last place, rounded. -/
def F64.significand (n k : Nat) : Nat := roundHalfEven (n * F64.unit) (k + F64.lastPlace n k)

theorem F64.roundMag_eq {n : Nat} (k : Nat) (h : n ≠ 0) :
    F64.roundMag n k =
      BitVec.ofNat 64 (min (F64.lastPlace n k * 2 ^ 52 + F64.significand n k) (2047 * 2 ^ 52)) := by
  obtain ⟨u, hu, hunit⟩ := F64.exists_unit_eq
  have hsig : F64.significand n k =
      if k + F64.lastPlace n k ≤ u then n * 2 ^ (u - (k + F64.lastPlace n k))
      else roundHalfEven n (k + F64.lastPlace n k - u) := by
    unfold F64.significand
    rw [hunit]
    split
    · rename_i hle
      rw [← Nat.mul_left_inj (Nat.two_pow_pos (k + F64.lastPlace n k)).ne', Nat.mul_assoc, ← Nat.pow_add,
        Nat.sub_add_cancel hle]
      exact roundHalfEven_of_dvd ((Nat.pow_dvd_pow 2 hle).mul_left n)
    · rename_i hgt
      rw [← roundHalfEven_mul_two_pow n _ u, Nat.sub_add_cancel (by omega)]
  rw [hsig, hu, F64.roundMag, if_neg h]
  rfl

@[simp] theorem F64.roundMag_zero (k : Nat) : F64.roundMag 0 k = 0 := rfl

theorem F64.scaled_zero : F64.scaled 0 = 0 := rfl

@[simp] theorem F64.sign_roundMag (n k : Nat) : F64.sign (F64.roundMag n k) = false := by
  by_cases hn : n = 0
  · rw [hn, F64.roundMag_zero]; rfl
  · rw [F64.roundMag_eq k hn]
    exact (F64.fields_ofNat (Nat.min_le_right _ _)).2.2

/-- `n / 2^k` has at most 53 bits above its last place, and 53 unless that is 2^-1074. -/
theorem F64.lastPlace_bounds {n : Nat} (k : Nat) (h : n ≠ 0) :
    n * F64.unit < 2 ^ 53 * 2 ^ (k + F64.lastPlace n k) ∧
      (F64.lastPlace n k ≠ 0 → 2 ^ 52 * 2 ^ (k + F64.lastPlace n k) ≤ n * F64.unit) := by
  obtain ⟨u, hu, hunit⟩ := F64.exists_unit_eq
  rw [hunit]
  constructor
  · calc n * 2 ^ u < 2 ^ (Nat.log2 n + 1) * 2 ^ u := Nat.mul_lt_mul_of_pos_right Nat.lt_log2_self (Nat.two_pow_pos u)
      _ ≤ 2 ^ 53 * 2 ^ (k + F64.lastPlace n k) := by
        rw [← Nat.pow_add, ← Nat.pow_add]
        exact Nat.pow_le_pow_right (by decide) (by unfold F64.lastPlace; omega)
  · intro hw
    have hplace : 52 + (k + F64.lastPlace n k) = Nat.log2 n + u := by unfold F64.lastPlace at *; omega
    calc 2 ^ 52 * 2 ^ (k + F64.lastPlace n k) = 2 ^ Nat.log2 n * 2 ^ u := by rw [← Nat.pow_add, ← Nat.pow_add, hplace]
      _ ≤ n * 2 ^ u := Nat.mul_le_mul_right _ (Nat.log2_self_le h)

theorem F64.significand_bounds {n : Nat} (k : Nat) (h : n ≠ 0) :
    (F64.lastPlace n k = 0 ∨ 2 ^ 52 ≤ F64.significand n k) ∧ F64.significand n k ≤ 2 ^ 53 := by
  obtain ⟨hlt, hle⟩ := F64.lastPlace_bounds k h
  obtain ⟨hdown, hup⟩ := roundHalfEven_bounds (n * F64.unit) (k + F64.lastPlace n k)
  have hpos := Nat.two_pow_pos (k + F64.lastPlace n k)
  constructor
  · by_cases hw : F64.lastPlace n k = 0
    · exact .inl hw
    · exact .inr (((Nat.le_div_iff_mul_le hpos).mpr (hle hw)).trans hdown)
  · exact hup.trans ((Nat.div_lt_iff_lt_mul hpos).mpr hlt)

/-- A finite rounding is its significand at its last place. -/
theorem F64.scaled_roundMag {n k : Nat} (h : n ≠ 0) (hfin : F64.exponent (F64.roundMag n k) < 2047) :
    F64.scaled (F64.roundMag n k) = F64.significand n k * 2 ^ F64.lastPlace n k := by
  obtain ⟨hlow, hhigh⟩ := F64.significand_bounds k h
  rw [F64.roundMag_eq k h] at hfin ⊢
  rw [(F64.fields_ofNat (Nat.min_le_right _ _)).1] at hfin
  have hlt : F64.lastPlace n k * 2 ^ 52 + F64.significand n k < 2047 * 2 ^ 52 := by omega
  rw [Nat.min_eq_left hlt.le]
  exact F64.scaled_ofNat hlow hhigh hlt

/-- No binary64 magnitude is nearer to `n / 2^k` than a finite rounding: one that is no multiple of the last place lies
below the smallest significand of 53 bits, which is as near as any. -/
theorem F64.roundMag_nearest (n k : Nat) (y : F64) (hfin : F64.exponent (F64.roundMag n k) < 2047) :
    ((F64.scaled (F64.roundMag n k) : Int) * 2 ^ k - n * F64.unit).natAbs ≤
      ((F64.scaled y : Int) * 2 ^ k - n * F64.unit).natAbs := by
  by_cases hn : n = 0
  · rw [hn, F64.roundMag_zero, F64.scaled_zero, Nat.cast_zero, zero_mul, zero_mul, sub_zero]
    exact Nat.zero_le _
  have hnear := roundHalfEven_nearest (n * F64.unit) (k + F64.lastPlace n k)
  have hplace : ∀ m : Nat, ((m * 2 ^ F64.lastPlace n k : Nat) : Int) * 2 ^ k =
      (m : Int) * (2 ^ (k + F64.lastPlace n k) : Nat) := by
    intro m; push_cast; ring
  rw [F64.scaled_roundMag hn hfin, hplace, ← Nat.cast_mul n]
  rcases F64.scaled_grid y (F64.lastPlace n k) with ⟨m, hm⟩ | ⟨hw, hy⟩
  · rw [hm, Nat.mul_comm (2 ^ _) m, hplace]
    exact hnear m
  · refine (hnear (2 ^ 52)).trans ?_
    have hmin := (F64.lastPlace_bounds k hn).2 hw
    have hbelow := Nat.mul_le_mul_right (2 ^ k) hy
    rw [Nat.mul_assoc, ← Nat.pow_add, Nat.add_comm _ k] at hbelow
    have hcast : (F64.scaled y : Int) * 2 ^ k = (F64.scaled y * 2 ^ k : Nat) := by push_cast; rfl
    rw [hcast]
    omega

theorem F64.exponent_roundMag_lt {n k : Nat} (h : n ≠ 0) (hplace : F64.lastPlace n k ≤ 2045)
    (hsig : F64.significand n k < 2 ^ 53) : F64.exponent (F64.roundMag n k) < 2047 := by
  rw [F64.roundMag_eq k h, (F64.fields_ofNat (Nat.min_le_right _ _)).1]
  omega

/-- A quotient of at most 53 bits in the range of binary64 is finite and not rounded. -/
theorem F64.roundMag_exact {n k j : Nat} (hdvd : 2 ^ j ∣ n) (hbits : n < 2 ^ 53 * 2 ^ j) (hk : k ≤ 1074 + j)
    (hj : j ≤ k + 971) :
    F64.exponent (F64.roundMag n k) < 2047 ∧ F64.scaled (F64.roundMag n k) * 2 ^ k = n * F64.unit := by
  by_cases hn : n = 0
  · rw [hn, F64.roundMag_zero, F64.scaled_zero, Nat.zero_mul, Nat.zero_mul]
    exact ⟨by decide, rfl⟩
  obtain ⟨u, hu, hunit⟩ := F64.exists_unit_eq
  have hlog : Nat.log2 n < 53 + j := (Nat.log2_lt hn).mpr (hbits.trans_eq (Nat.pow_add 2 53 j).symm)
  have hplace : k + F64.lastPlace n k ≤ j + u := by unfold F64.lastPlace; omega
  have hmax : F64.lastPlace n k ≤ 2045 := by unfold F64.lastPlace; omega
  have hexact : F64.significand n k * 2 ^ (k + F64.lastPlace n k) = n * F64.unit := by
    refine roundHalfEven_of_dvd ((Nat.pow_dvd_pow 2 hplace).trans ?_)
    rw [Nat.pow_add, hunit]
    exact Nat.mul_dvd_mul_right hdvd _
  have hsig : F64.significand n k < 2 ^ 53 := by
    have := (F64.lastPlace_bounds k hn).1
    rw [← hexact] at this
    exact Nat.lt_of_mul_lt_mul_right this
  have hfin := F64.exponent_roundMag_lt hn hmax hsig
  refine ⟨hfin, ?_⟩
  rw [F64.scaled_roundMag hn hfin, Nat.mul_assoc, ← Nat.pow_add, Nat.add_comm _ k, hexact]

end Sys2Proof.Machine
end

section
/-! PROOFS. Scope family, O45: the integer part of a magnitude and its subtraction (00_scope.md R8, 40_numeric_encoder.md
R109). -/

namespace Sys2Proof.Machine

theorem F64.unit_pos : 0 < F64.unit := by
  obtain ⟨u, -, hunit⟩ := F64.exists_unit_eq
  exact hunit ▸ Nat.two_pow_pos u

theorem F64.two_pow_dvd_unit {j : Nat} (h : j ≤ 1074) : 2 ^ j ∣ F64.unit := by
  obtain ⟨u, hu, hunit⟩ := F64.exists_unit_eq
  exact hunit ▸ Nat.pow_dvd_pow 2 (hu ▸ h)

theorem F64.sign_ofNat (n : Nat) : F64.sign (F64.ofNat n) = false := by
  rw [F64.ofNat_eq, F64.sign_roundMag]

/-- An integer below 2^53 is finite and not rounded. -/
theorem F64.ofNat_exact {n : Nat} (h : n < 2 ^ 53) :
    F64.exponent (F64.ofNat n) < 2047 ∧ F64.scaled (F64.ofNat n) = n * F64.unit := by
  rw [F64.ofNat_eq]
  obtain ⟨hfin, hval⟩ := F64.roundMag_exact (n := n) (k := 0) (j := 0) (Nat.one_dvd n) h (Nat.zero_le _) (Nat.zero_le _)
  exact ⟨hfin, by rwa [Nat.pow_zero, Nat.mul_one] at hval⟩

theorem F64.integerPart_bounds (v : F64) :
    F64.integerPart v * F64.unit ≤ F64.scaled v ∧ F64.scaled v < (F64.integerPart v + 1) * F64.unit :=
  ⟨Nat.div_mul_le_self _ _, (Nat.div_lt_iff_lt_mul F64.unit_pos).mp (Nat.lt_succ_self _)⟩

theorem F64.trunc_of_negative {v : F64} (h : F64.sign v = true) : F64.trunc v = -(F64.integerPart v : Int) := by
  rw [F64.trunc, F64.toInt, if_pos h, Int.neg_tdiv]
  rfl

/-- The last place of a magnitude whose integer part is below 2^53 is at most 1. -/
theorem F64.exponent_le_of_integerPart_lt {v : F64} (h : F64.integerPart v < 2 ^ 53) : F64.exponent v ≤ 1075 := by
  by_cases he : F64.exponent v = 0
  · omega
  obtain ⟨u, hu, hunit⟩ := F64.exists_unit_eq
  have hlt : 2 ^ 52 * 2 ^ (F64.exponent v - 1) < 2 ^ 53 * 2 ^ u :=
    hunit ▸ (F64.scaled_normal he).trans_lt ((Nat.div_lt_iff_lt_mul F64.unit_pos).mp h)
  rw [← Nat.pow_add, ← Nat.pow_add, Nat.pow_lt_pow_iff_right (by decide)] at hlt
  omega

theorem F64.round_natCast (n k : Nat) : F64.round (n : Int) k = F64.roundMag n k := by
  simp [F64.round, F64.withSign]

/-- The fractional part of such a magnitude has no more bits than the magnitude, so it is not rounded. -/
theorem F64.roundMag_fractionalPart {mag : F64} (h : F64.integerPart mag < 2 ^ 53) :
    F64.scaled (F64.roundMag (F64.scaled mag % F64.unit) 1074) = F64.scaled mag % F64.unit := by
  obtain ⟨hdvd, hbits⟩ := F64.scaled_shape mag
  have hplace := F64.exponent_le_of_integerPart_lt h
  have hunit := F64.two_pow_dvd_unit (j := F64.exponent mag - 1) (by omega)
  have hexact := (F64.roundMag_exact (k := 1074) ((Nat.dvd_mod_iff hunit).mpr hdvd) ((Nat.mod_le _ _).trans_lt hbits)
    (Nat.le_add_right _ _) (by omega)).2
  exact Nat.eq_of_mul_eq_mul_right F64.unit_pos hexact

/-- Subtracting the integer part leaves the fractional part, with sign plus. -/
theorem F64.sub_integerPart {mag : F64} (hs : F64.sign mag = false) (h : F64.integerPart mag < 2 ^ 53) :
    F64.scaled (F64.sub mag (F64.ofNat (F64.integerPart mag))) = F64.scaled mag % F64.unit ∧
      F64.sign (F64.sub mag (F64.ofNat (F64.integerPart mag))) = false := by
  obtain ⟨hfin, hval⟩ := F64.ofNat_exact h
  have hplace := F64.exponent_le_of_integerPart_lt h
  have hparts : F64.integerPart mag * F64.unit + F64.scaled mag % F64.unit = F64.scaled mag := Nat.div_add_mod' _ _
  rw [F64.sub_of_finite (by omega) hfin, F64.toInt_of_nonneg hs, F64.toInt_of_nonneg (F64.sign_ofNat _), hval, hs]
  split
  · rename_i heq
    rw [F64.scaled_withSign, F64.scaled_zero, Int.ofNat_inj.mp heq, Nat.mul_mod_left]
    exact ⟨rfl, F64.sign_withSign false rfl⟩
  · have hdiff : (F64.scaled mag : Int) - (F64.integerPart mag * F64.unit : Nat) = (F64.scaled mag % F64.unit : Nat) := by
      omega
    rw [hdiff, F64.round_natCast]
    exact ⟨F64.roundMag_fractionalPart h, F64.sign_roundMag _ _⟩

/-- Settles O45: conversion, integer part and subtraction are exact by the lemmas above. -/
theorem integerPartArithmeticIsExact : Obligations.IntegerPartArithmeticIsExact := by
  unfold Obligations.IntegerPartArithmeticIsExact
  refine ⟨fun n hn => ⟨(F64.ofNat_exact hn).2, F64.sign_ofNat n⟩, fun v => ?_,
    fun mag hs h => ⟨F64.trunc_of_nonneg hs, F64.sub_integerPart hs h⟩⟩
  rw [F64.natAbs_trunc]
  refine ⟨(F64.integerPart_bounds v).1, (F64.integerPart_bounds v).2, fun hs => ?_, fun hs => ?_⟩
  · rw [F64.trunc_of_negative hs]; omega
  · rw [F64.trunc_of_nonneg hs]; omega

end Sys2Proof.Machine
end

section
/-! PROOFS. Scope family, O46: `fsub` and `fmul` round to nearest, and IEEE 754's results for the other operands
(00_scope.md R8, log entries 16 and 27). -/

namespace Sys2Proof.Machine

/-- The integer with sign `negative` and magnitude `n`. -/
def signedInt (negative : Bool) (n : Nat) : Int := if negative then -(n : Int) else n

theorem signedInt_natAbs (z : Int) : signedInt (decide (z < 0)) z.natAbs = z := by
  by_cases hz : z < 0
  · rw [signedInt, if_pos (decide_eq_true hz)]; omega
  · rw [signedInt, if_neg (by simpa using hz)]; omega

theorem F64.toInt_eq_signedInt (v : F64) : F64.toInt v = signedInt (F64.sign v) (F64.scaled v) := rfl

theorem F64.toInt_mul_toInt (a b : F64) :
    F64.toInt a * F64.toInt b = signedInt (F64.sign a != F64.sign b) (F64.scaled a * F64.scaled b) := by
  rw [F64.toInt_eq_signedInt, F64.toInt_eq_signedInt]
  cases F64.sign a <;> cases F64.sign b <;> simp [signedInt]

theorem signedInt_mul (negative : Bool) (n c : Nat) : signedInt negative n * c = signedInt negative (n * c) := by
  cases negative <;> simp [signedInt]

/-- Integers are no nearer to each other than their magnitudes. -/
theorem natAbs_sub_le_signedInt (b b' : Bool) (m n : Nat) :
    ((m : Int) - n).natAbs ≤ (signedInt b m - signedInt b' n).natAbs := by
  cases b <;> cases b' <;> simp only [signedInt, if_true, Bool.false_eq_true, if_false] <;> omega

theorem natAbs_signedInt_sub (b : Bool) (m n : Nat) :
    (signedInt b m - signedInt b n).natAbs = ((m : Int) - n).natAbs := by
  cases b
  · rfl
  · rw [signedInt, signedInt, if_pos rfl, if_pos rfl]; omega

/-- A finite rounding with a sign is nearest to the exact value with that sign, in units of `1 / c`. -/
theorem F64.withSign_roundMag_nearest (negative : Bool) {n k c : Nat} (hk : 2 ^ k = c * F64.unit) (y : F64)
    (hfin : F64.exponent (F64.roundMag n k) < 2047) :
    (F64.toInt (F64.withSign negative (F64.roundMag n k)) * c - signedInt negative n).natAbs ≤
      (F64.toInt y * c - signedInt negative n).natAbs := by
  have hcancel : ∀ m : Nat, ((m : Int) * 2 ^ k - n * F64.unit).natAbs = (((m * c : Nat) : Int) - n).natAbs * F64.unit := by
    intro m
    have hcast : (2 : Int) ^ k = (c : Int) * F64.unit := by exact_mod_cast hk
    rw [hcast, ← Int.mul_assoc, ← Int.sub_mul, Int.natAbs_mul, Int.natAbs_natCast, Nat.cast_mul]
  have hnear := F64.roundMag_nearest n k y hfin
  rw [hcancel, hcancel] at hnear
  rw [F64.toInt_eq_signedInt, F64.toInt_eq_signedInt, F64.sign_withSign _ (F64.sign_roundMag n k),
    F64.scaled_withSign, signedInt_mul, signedInt_mul, natAbs_signedInt_sub]
  exact (Nat.le_of_mul_le_mul_right hnear F64.unit_pos).trans (natAbs_sub_le_signedInt _ _ _ _)

/-- No binary64 is nearer to the exact difference than a finite `fsub`. -/
theorem F64.sub_nearest {a b : F64} (y : F64) (ha : F64.exponent a < 2047) (hb : F64.exponent b < 2047)
    (hfin : F64.exponent (F64.sub a b) < 2047) :
    (F64.toInt (F64.sub a b) - (F64.toInt a - F64.toInt b)).natAbs ≤
      (F64.toInt y - (F64.toInt a - F64.toInt b)).natAbs := by
  rw [F64.sub_of_finite ha hb] at hfin ⊢
  split at hfin
  · rename_i heq
    rw [if_pos heq, heq, F64.toInt_withSign _ rfl, F64.scaled_zero]
    simp
  · rename_i hne
    rw [if_neg hne]
    have hnear := F64.withSign_roundMag_nearest (decide (F64.toInt a - F64.toInt b < 0)) (c := 1)
      (Nat.one_mul F64.unit).symm y (by rwa [F64.round, F64.exponent_withSign] at hfin)
    rwa [signedInt_natAbs, Nat.cast_one, Int.mul_one, Int.mul_one] at hnear

/-- The scale of a product of two scaled magnitudes. -/
theorem F64.two_pow_mul_scale : 2 ^ 2148 = F64.unit * F64.unit := by
  obtain ⟨u, hu, hunit⟩ := F64.exists_unit_eq
  rw [hunit, ← Nat.pow_add, show 2148 = u + u by omega]

/-- No binary64 is nearer to the exact product than a finite `fmul`. -/
theorem F64.mul_nearest {a b : F64} (y : F64) (ha : F64.exponent a < 2047) (hb : F64.exponent b < 2047)
    (hfin : F64.exponent (F64.mul a b) < 2047) :
    (F64.toInt (F64.mul a b) * F64.unit - F64.toInt a * F64.toInt b).natAbs ≤
      (F64.toInt y * F64.unit - F64.toInt a * F64.toInt b).natAbs := by
  rw [F64.mul_of_finite ha hb] at hfin ⊢
  rw [F64.exponent_withSign] at hfin
  rw [F64.toInt_mul_toInt]
  exact F64.withSign_roundMag_nearest _ F64.two_pow_mul_scale y hfin

theorem F64.sign_mul {a b : F64} (ha : F64.exponent a < 2047) (hb : F64.exponent b < 2047) :
    F64.sign (F64.mul a b) = (F64.sign a != F64.sign b) := by
  rw [F64.mul_of_finite ha hb, F64.sign_withSign _ (F64.sign_roundMag _ _)]

/-- The sign of an exact zero difference. -/
theorem F64.sub_of_toInt_eq {a b : F64} (ha : F64.exponent a < 2047) (hb : F64.exponent b < 2047)
    (h : F64.toInt a = F64.toInt b) :
    F64.sub a b = if F64.sign a = true ∧ F64.sign b = false then 0x8000000000000000 else 0 := by
  rw [F64.sub_of_finite ha hb, if_pos h]
  cases F64.sign a <;> cases F64.sign b <;> decide

/-! ### Infinities and NaNs -/

theorem F64.arithmetic_of_isNaN {a b : F64} (h : F64.isNaN a = true ∨ F64.isNaN b = true) :
    F64.isNaN (F64.sub a b) = true ∧ F64.isNaN (F64.mul a b) = true := by
  have hor : (F64.isNaN a || F64.isNaN b) = true := by simpa using h
  simp [F64.sub, F64.mul, hor, F64.isNaN_nanOf]

/-- An infinity is no NaN and no zero. -/
theorem F64.isInf_class {v : F64} (h : F64.isInf v = true) : F64.isNaN v = false ∧ F64.scaled v ≠ 0 := by
  obtain ⟨he, hf⟩ : F64.exponent v = 2047 ∧ F64.fraction v = 0 := by simpa [F64.isInf] using h
  have hpos := (Nat.mul_pos (Nat.two_pow_pos 52) (Nat.two_pow_pos _)).trans_le
    (F64.scaled_normal (v := v) (by omega))
  exact ⟨by simp [F64.isNaN, hf], hpos.ne'⟩

theorem F64.isNaN_signed_infinity (negative : Bool) : F64.isNaN (F64.withSign negative F64.infinity) = false := by
  cases negative <;> decide

theorem F64.sub_isInf_finite {a b : F64} (ha : F64.isInf a = true) (hb : F64.exponent b < 2047) :
    F64.sub a b = a ∧ F64.sub b a = F64.neg a := by
  simp [F64.sub, ha, (F64.isInf_class ha).1, F64.finite_class hb]

theorem F64.isNaN_sub_isInf {a b : F64} (ha : F64.isInf a = true) (hb : F64.isInf b = true) :
    F64.isNaN (F64.sub a b) = (F64.sign a == F64.sign b) := by
  have ha' := (F64.isInf_class ha).1
  cases hs : F64.sign a == F64.sign b <;> simp [F64.sub, ha, hb, ha', (F64.isInf_class hb).1, hs, F64.isNaN_nanOf]

/-- An infinite factor: the product is a NaN exactly when the other factor is a zero. -/
theorem F64.isNaN_mul_isInf {a b : F64} (ha : F64.isInf a = true) (hb : F64.isNaN b = false) :
    F64.isNaN (F64.mul a b) = (F64.scaled b == 0) ∧ F64.isNaN (F64.mul b a) = (F64.scaled b == 0) := by
  obtain ⟨hnan, hne⟩ := F64.isInf_class ha
  by_cases hz : F64.scaled b = 0
  · simp [F64.mul, ha, hb, hnan, hz, F64.isNaN_nanOf]
  · simp [F64.mul, ha, hb, hnan, hne, hz, F64.isNaN_signed_infinity]

/-- Settles O46: finite results by `roundMag_nearest` with the sign of the exact value, the others by IEEE 754's cases. -/
theorem roundingIsToNearest : Obligations.RoundingIsToNearest := by
  unfold Obligations.RoundingIsToNearest
  refine ⟨fun n k y hfin _ => F64.roundMag_nearest n k y hfin, fun a b y ha hb _ => ?_,
    fun a b => F64.arithmetic_of_isNaN, fun a b ha => ?_⟩
  · exact ⟨F64.sub_nearest y ha hb, F64.mul_nearest y ha hb, F64.sign_mul ha hb, F64.sub_of_toInt_eq ha hb⟩
  · exact ⟨F64.sub_isInf_finite ha, F64.isNaN_sub_isInf ha, F64.isNaN_mul_isInf ha⟩

end Sys2Proof.Machine
end

section
/-! PROOFS. State family: everything a host step or a front-end event can do (60_exceptions.md R252), and the induction
over what one step is made of, packaged once for the frames and invariants of 10_state.md. -/

namespace Sys2Proof.Machine

/-! ### Host steps -/

/-- What the input `x` may make of the registers `dev` of one device. -/
structure HostWrite (x : Input) (dev dev' : Device) : Prop where
  slot : dev'.storageSlot = dev.storageSlot
  lines : dev'.lines = dev.lines
  address : dev'.address = dev.address ∨ alphanumeric dev'.address = true
  state : dev'.state = dev.state ∨ dev'.state = .ready ∨ dev'.state = .lowPower
  active : x.forbidden = false → dev'.active = dev.active

theorem HostWrite.refl (x : Input) (dev : Device) : HostWrite x dev dev :=
  ⟨rfl, rfl, .inl rfl, .inl rfl, fun _ => rfl⟩

/-- What the input `x` may make of the state `s`, in the fields the invariants and frames of 10_state.md speak of. -/
structure HostResult (x : Input) (s t : State) : Prop where
  cfg : t.cfg = s.cfg
  inputs : t.inputs = s.inputs
  blocked : t.blocked = s.blocked
  registry : x.forbidden = false → t.registry = s.registry
  storage : s.storage.wf = true → t.storage.wf = true
  slots : t.devices.map (·.storageSlot) = s.devices.map (·.storageSlot)
  devices : ∀ (k : Nat) (w : Device), t.devices[k]? = some w → ∃ v, s.devices[k]? = some v ∧ HostWrite x v w

theorem HostResult.refl (x : Input) (s : State) : HostResult x s s :=
  ⟨rfl, rfl, rfl, fun _ => rfl, id, rfl, fun _ w hw => ⟨w, hw, .refl x w⟩⟩

/-- A write of one device's registers. -/
theorem hostResult_updateDev {x : Input} (s : State) (d : Nat) {f : Device → Device}
    (hf : ∀ dev, HostWrite x dev (f dev)) : HostResult x s (s.updateDev d f) := by
  refine ⟨rfl, rfl, rfl, fun _ => rfl, id, map_modify_of_eq _ _ _ fun dev => (hf dev).slot, fun k w hw => ?_⟩
  rw [State.updateDev_devices, List.getElem?_modify] at hw
  obtain ⟨v, hv, rfl⟩ := Option.map_eq_some_iff.mp hw
  refine ⟨v, hv, ?_⟩
  split
  · exact hf v
  · exact .refl x v

/-- SetAddress (R167) writes an alphanumeric byte, mirrored into the device's storage slot, or nothing. -/
theorem hostResult_setAddress {x : Input} (s : State) (d : Nat) (b : Byte) :
    HostResult x s (s.setAddress d b).1 := by
  unfold State.setAddress
  split
  · next hb =>
    have hupd : HostResult x s (s.updateDev d fun dev => { dev with address := b }) :=
      hostResult_updateDev s d fun dev => ⟨rfl, rfl, .inr hb, .inl rfl, fun _ => rfl⟩
    split
    · exact { hupd with storage := Memory.wf_write _ b }
    · exact hupd
  · exact .refl x s

/-- Everything a host step or a front-end event can do (R252, R83, R235). -/
theorem hostStep_inv (x : Input) (s : State) : HostResult x s (hostStep x s) := by
  cases x with
  | record w => exact .refl _ s
  | malformed => exact .refl _ s
  | framingError => exact { HostResult.refl _ s with }
  | setAddress d b =>
    by_cases hd : d < s.devices.length
    · simp only [hostStep, if_pos hd]
      exact { hostResult_setAddress s d b with }
    · simp only [hostStep, if_neg hd]
      exact .refl _ s
  | setLowPower d => exact hostResult_updateDev s d fun _ => ⟨rfl, rfl, .inl rfl, .inr (.inr rfl), fun _ => rfl⟩
  | setReady d => exact hostResult_updateDev s d fun _ => ⟨rfl, rfl, .inl rfl, .inr (.inl rfl), fun _ => rfl⟩
  | forceActive d v => exact hostResult_updateDev s d fun _ => ⟨rfl, rfl, .inl rfl, .inl rfl, nofun⟩
  | forceRegistry r => exact { HostResult.refl _ s with registry := nofun }

/-! ### The parts of a step -/

/-- A device read after the cycle of device `d`: device `d` as the cycle leaves it, or another one untouched. -/
theorem CycleResult.device_cases {i : Instr} {u t : State} {d k : Nat} {dev dev' w : Device} {effs : List Effect}
    (h : CycleResult i u t d dev dev' effs) (hw : t.devices[k]? = some w) :
    (k = d ∧ w = dev') ∨ (k ≠ d ∧ u.devices[k]? = some w) := by
  rw [h.devices] at hw
  by_cases hk : k = d
  · subst hk
    have hlt : k < u.devices.length := by simpa using (List.getElem?_eq_some_iff.mp hw).1
    rw [List.getElem?_set_self hlt] at hw
    exact .inl ⟨rfl, (Option.some.inj hw).symm⟩
  · rw [List.getElem?_set_ne (Ne.symm hk)] at hw
    exact .inr ⟨hk, hw⟩

theorem CycleResult.device_self {i : Instr} {u t : State} {d : Nat} {dev dev' : Device} {effs : List Effect}
    (h : CycleResult i u t d dev dev' effs) (hd : u.devices[d]? = some dev) : t.devices[d]? = some dev' := by
  rw [h.devices, List.getElem?_set_self (List.getElem?_eq_some_iff.mp hd).1]

/-- A cycle keeps every projection that it keeps of its own device. -/
theorem CycleResult.map_devices {α : Type} (f : Device → α) {i : Instr} {u t : State} {d : Nat} {dev dev' : Device}
    {effs : List Effect} (h : CycleResult i u t d dev dev' effs) (hd : u.devices[d]? = some dev)
    (hf : f dev' = f dev) : t.devices.map f = u.devices.map f := by
  rw [h.devices, map_set_of_eq _ f hd hf]

/-- A property that reads neither the queues nor the trace is kept by a step if every device's cycle and every waiting
host step keep it. -/
theorem step_keeps (P : State → Prop)
    (hqueues : ∀ u pending inputs trace, P u → P { u with pending := pending, inputs := inputs, trace := trace })
    (hcycle : ∀ i d u t dev dev' effs, P u → u.claimed = false → u.blocked = false →
      u.devices[d]? = some dev → CycleResult i u t d dev dev' effs → P t)
    {s t : State} (hhost : ∀ x ∈ s.inputs, ∀ u, P u → u.blocked = false → P (hostStep x u))
    (hs : P s) (h : step s = .next t) : P t := by
  rcases step_inv h with ⟨w, u, -, hfetch, hexec⟩ | rfl | ⟨x, rest, hb, hin, rfl⟩
  · have hu : P u := by
      rcases (fetch_inv hfetch).2 with ⟨rest, -, rfl⟩ | ⟨rest, -, -, rfl⟩
      · exact hqueues s rest s.inputs s.trace hs
      · exact hqueues s s.pending rest s.trace hs
    refine exec_keeps (decode w) P (fun d v hv _ _ => ?_)
      (fun d v v' dev dev' effs hv hc hb hd _ hres => hcycle _ d v v' dev dev' effs hv hc hb hd hres) hu hexec
    rw [State.reject_eq]
    exact hqueues v v.pending v.inputs _ hv
  · exact hs
  · exact hhost x (by simp [hin]) _ (hqueues s s.pending rest s.trace hs) hb

/-- No step adds an input. -/
theorem step_inputs {s t : State} (h : step s = .next t) : t.inputs ⊆ s.inputs := by
  rcases step_inv h with ⟨w, u, -, hfetch, hexec⟩ | rfl | ⟨x, rest, -, hin, rfl⟩
  · rw [(exec_queuesKept hexec).inputs]
    rcases (fetch_inv hfetch).2 with ⟨rest, -, rfl⟩ | ⟨rest, -, hin, rfl⟩
    · exact List.Subset.refl _
    · simp [hin]
  · exact List.Subset.refl _
  · rw [(hostStep_inv x _).inputs]
    simp [hin]

theorem step_lawful {s t : State} (hl : s.Lawful) (h : step s = .next t) : t.Lawful :=
  fun x hx => hl x (step_inputs h hx)

end Sys2Proof.Machine
end

section
/-! PROOFS. State family: what a command or a step leaves unchanged (10_state.md R21, R22, R27, R36). -/

namespace Sys2Proof.Machine

/-- Settles O40: no cycle and no host step writes the configuration or a storage slot. -/
theorem stepLeavesTheConfiguration : Obligations.StepLeavesTheConfiguration := by
  unfold Obligations.StepLeavesTheConfiguration
  intro s t h
  refine step_keeps (fun u => u.cfg = s.cfg ∧ u.devices.map (·.storageSlot) = s.devices.map (·.storageSlot))
    (fun _ _ _ _ hu => hu) ?_ ?_ ⟨rfl, rfl⟩ h
  · rintro i d u t dev dev' effs ⟨hcfg, hslots⟩ - - hd hres
    exact ⟨hres.cfg.trans hcfg, (hres.map_devices _ hd hres.slot).trans hslots⟩
  · rintro x - u ⟨hcfg, hslots⟩ -
    exact ⟨(hostStep_inv x u).cfg.trans hcfg, (hostStep_inv x u).slots.trans hslots⟩

/-- Settles O42: a cycle writes its device's lines only in the class the statement leaves out. -/
theorem linesAreWrittenOnlyByMeasurements : Obligations.LinesAreWrittenOnlyByMeasurements := by
  unfold Obligations.LinesAreWrittenOnlyByMeasurements
  intro i s t h hclass
  refine exec_keeps i (fun u => u.devices.map (·.lines) = s.devices.map (·.lines)) (fun _ _ hu _ _ => hu) ?_ rfl h
  intro d u t dev dev' effs hu _ _ hd _ hres
  have hlines : dev'.lines = dev.lines := by
    rcases hres.lines with hkept | ⟨hprobe, hmeas, hcont, -⟩
    · exact hkept
    · simp [hprobe, hmeas, hcont] at hclass
  exact (hres.map_devices _ hd hlines).trans hu

/-- Settles O43: the device in a cycle keeps its address or gets the accepted byte, every other device is untouched. -/
theorem addressesAreWrittenOnlyByAddressChange : Obligations.AddressesAreWrittenOnlyByAddressChange := by
  unfold Obligations.AddressesAreWrittenOnlyByAddressChange
  intro i s t k v w h hv
  refine exec_keeps i (fun u => ∀ w, u.devices[k]? = some w →
    w.address = v.address ∨ (i.mclass = .addressChange ∧ acceptedAddress i.param1 = some w.address))
    (fun _ _ hu _ _ => hu) ?_ ?_ h w
  · intro d u t dev dev' effs hu _ _ hd _ hres w hw
    rcases hres.device_cases hw with ⟨rfl, rfl⟩ | ⟨-, hother⟩
    · rcases hres.address with hkept | haccepted
      · rw [hkept]
        exact hu dev hd
      · exact .inr haccepted
    · exact hu w hother
  · intro w hw
    rw [hv] at hw
    exact .inl (by rw [Option.some.inj hw])

end Sys2Proof.Machine
end

section
/-! PROOFS. State family: the state after device construction (70_reset_and_hazards.md R260) meets the invariants. -/

namespace Sys2Proof.Machine

theorem alphanumeric_orDefault (a : Byte) : alphanumeric (if alphanumeric a then a else defaultAddress) = true := by
  split
  · assumption
  · decide

theorem alphanumeric_resetAddress (storage : Memory) (c : DeviceConfig) :
    alphanumeric (resetAddress storage c) = true :=
  alphanumeric_orDefault _

/-- Every device after construction comes from its configuration. -/
theorem mem_boot_devices {cfg : Config} {storage : Memory} {dev : Device}
    (h : dev ∈ (State.boot cfg storage).devices) : ∃ c, dev = resetDevice cfg.lineSlots storage c := by
  obtain ⟨c, -, rfl⟩ := List.mem_map.mp h
  exact ⟨c, rfl⟩

theorem boot_wf (cfg : Config) {storage : Memory} (h : storage.wf = true) : (State.boot cfg storage).Wf where
  devices dev hdev := by
    obtain ⟨c, rfl⟩ := mem_boot_devices hdev
    exact ⟨alphanumeric_resetAddress storage c, List.length_replicate⟩
  slots := by simp [State.boot, resetDevice]
  storage := h
  registry := nofun

theorem boot_quiescent (cfg : Config) (storage : Memory) : (State.boot cfg storage).Quiescent where
  running := rfl
  registry := rfl
  devices dev hdev := by
    obtain ⟨c, rfl⟩ := mem_boot_devices hdev
    exact ⟨rfl, .inl rfl⟩

theorem State.Quiescent.oneActive {s : State} (h : s.Quiescent) : s.OneActive := by
  intro d k v w hv _ hact _
  rw [(h.devices v (List.mem_of_getElem? hv)).1] at hact
  cases hact

theorem boot_linesBelow (cfg : Config) (storage : Memory) : (State.boot cfg storage).LinesBelow 75 := by
  intro dev hdev l hl
  obtain ⟨c, rfl⟩ := mem_boot_devices hdev
  rw [List.eq_of_mem_replicate hl]
  decide

/-- Settles O8: the lemmas above, for any configuration and for State.reset. -/
theorem resetMeetsTheInvariants : Obligations.ResetMeetsTheInvariants := by
  unfold Obligations.ResetMeetsTheInvariants
  have hboot : ∀ (cfg : Config) (storage : Memory), storage.wf = true →
      (State.boot cfg storage).Wf ∧ (State.boot cfg storage).Quiescent ∧ (State.boot cfg storage).OneActive ∧
        (State.boot cfg storage).Lawful ∧ (State.boot cfg storage).LinesBelow 75 := fun cfg storage h =>
    ⟨boot_wf cfg h, boot_quiescent cfg storage, (boot_quiescent cfg storage).oneActive, nofun,
      boot_linesBelow cfg storage⟩
  exact ⟨hboot, hboot Config.default [] rfl⟩

end Sys2Proof.Machine
end

section
/-! PROOFS. State family, O9: every step keeps the state well formed (10_state.md R35 (i), R22, R26, R27). -/

namespace Sys2Proof.Machine

theorem acceptedAddress_alphanumeric {p : BitVec 16} {b : Byte} (h : acceptedAddress p = some b) :
    alphanumeric b = true := by
  rw [newAddress_accepted] at h
  exact (Option.filter_eq_some_iff.mp h).2

/-- PACK answers exactly LINE_SLOTS lines (R140). -/
theorem packAt_length {cap : Nat} {cfg : Config} {vals : Values} {ls : List Bytes}
    (h : packAt cap cfg vals = some ls) : ls.length = cfg.lineSlots := by
  simp only [packAt, pack] at h
  split at h
  · next hfit =>
    rw [← Option.some.inj h, List.length_append, List.length_replicate]
    omega
  · cases h

theorem LinesWritten.length {cfg : Config} {ls : List Bytes} (h : LinesWritten cfg ls) :
    ls.length = cfg.lineSlots := by
  rcases h with rfl | ⟨cap, vals, -, hpack⟩
  · exact List.length_replicate
  · exact packAt_length hpack

/-- The storage mirror of an address change keeps the canonical form (R56, R167). -/
theorem readdressStorage_wf (p : BitVec 16) (dev : Device) {m : Memory} (h : m.wf = true) :
    (readdressStorage p dev m).wf = true := by
  unfold readdressStorage mirrored
  split
  · split
    · exact Memory.wf_write _ _ h
    · exact h
  · exact h

/-- The device in a cycle stays well formed. -/
theorem CycleResult.device_wf {i : Instr} {u t : State} {d : Nat} {dev dev' : Device} {effs : List Effect}
    (h : CycleResult i u t d dev dev' effs) (hdev : dev.wf u.cfg.lineSlots) : dev'.wf t.cfg.lineSlots := by
  obtain ⟨haddr, hlen⟩ := hdev
  constructor
  · rcases h.address with hkept | ⟨-, haccepted⟩
    · rwa [hkept]
    · exact acceptedAddress_alphanumeric haccepted
  · rw [h.cfg]
    rcases h.lines with hkept | ⟨-, -, -, hwritten⟩
    · rwa [hkept]
    · exact hwritten.length

theorem HostWrite.wf {x : Input} {n : Nat} {dev dev' : Device} (h : HostWrite x dev dev') (hdev : dev.wf n) :
    dev'.wf n := by
  obtain ⟨haddr, hlen⟩ := hdev
  refine ⟨?_, by rw [h.lines, hlen]⟩
  rcases h.address with hkept | halpha
  · rwa [hkept]
  · exact halpha

theorem CycleResult.wf {i : Instr} {u t : State} {d : Nat} {dev dev' : Device} {effs : List Effect}
    (h : CycleResult i u t d dev dev' effs) (hd : u.devices[d]? = some dev) (hu : u.Wf) : t.Wf where
  devices w hw := by
    obtain ⟨k, hk⟩ := List.mem_iff_getElem?.mp hw
    rcases h.device_cases hk with ⟨-, rfl⟩ | ⟨-, hother⟩
    · exact h.device_wf (hu.devices dev (List.mem_of_getElem? hd))
    · rw [h.cfg]
      exact hu.devices w (List.mem_of_getElem? hother)
  slots := by rw [h.map_devices _ hd h.slot, hu.slots, h.cfg]
  storage := by
    rw [h.storage]
    split
    · exact readdressStorage_wf _ _ hu.storage
    · exact hu.storage
  registry k hk := by
    have hlt : d < t.devices.length := (List.getElem?_eq_some_iff.mp (h.device_self hd)).1
    rcases h.ending with ⟨-, -, hreg, -⟩ | ⟨-, -, -, -, -, hreg | hreg⟩
    · rw [hreg] at hk; cases hk
    · rw [hreg] at hk; cases hk
    · rw [hreg] at hk; cases hk; exact hlt

theorem HostResult.wf {x : Input} {s t : State} (h : HostResult x s t) (hx : x.forbidden = false) (hs : s.Wf) :
    t.Wf where
  devices w hw := by
    obtain ⟨k, hk⟩ := List.mem_iff_getElem?.mp hw
    obtain ⟨v, hv, hwrite⟩ := h.devices k w hk
    rw [h.cfg]
    exact hwrite.wf (hs.devices v (List.mem_of_getElem? hv))
  slots := by rw [h.slots, hs.slots, h.cfg]
  storage := h.storage hs.storage
  registry k hk := by
    have hlen : t.devices.length = s.devices.length := by simpa using congrArg List.length h.slots
    rw [hlen]
    exact hs.registry k ((h.registry hx).symm.trans hk)

/-- Settles O9: cycles and lawful host steps keep the state well formed, and no step adds an input. -/
theorem stepKeepsStateWellFormed : Obligations.StepKeepsStateWellFormed := by
  unfold Obligations.StepKeepsStateWellFormed
  intro s t hs hl h
  refine ⟨step_keeps State.Wf ?_ ?_ ?_ hs h, step_lawful hl h⟩
  · intro u _ _ _ hu
    exact { hu with }
  · intro i d u t dev dev' effs hu _ _ hd hres
    exact hres.wf hd hu
  · intro x hx u hu _
    exact (hostStep_inv x u).wf (hl x hx) hu

end Sys2Proof.Machine
end

section
/-! PROOFS. State family, O11 and O10: which devices are active between two steps (10_state.md R23, R24, R35 (ii)), and
where a run ends (70_reset_and_hazards.md R274). -/

namespace Sys2Proof.Machine

/-! ### At most one active device -/

/-- A cycle starts with no device active, so that only its own can be active after it. -/
theorem CycleResult.oneActive {i : Instr} {u t : State} {d : Nat} {dev dev' : Device} {effs : List Effect}
    (h : CycleResult i u t d dev dev' effs) (hc : u.claimed = false) : t.OneActive := by
  have honly : ∀ k w, t.devices[k]? = some w → w.active = true → k = d := by
    intro k w hw hact
    rcases h.device_cases hw with ⟨rfl, -⟩ | ⟨-, hother⟩
    · rfl
    · rw [(u.claimed_iff.mp hc).1 w (List.mem_of_getElem? hother)] at hact
      cases hact
  intro k l v w hv hw hvact hwact
  rw [honly k v hv hvact, honly l w hw hwact]

theorem HostResult.oneActive {x : Input} {s t : State} (h : HostResult x s t) (hx : x.forbidden = false)
    (hs : s.OneActive) : t.OneActive := by
  intro k l v w hv hw hvact hwact
  obtain ⟨v₀, hv₀, hvwrite⟩ := h.devices k v hv
  obtain ⟨w₀, hw₀, hwwrite⟩ := h.devices l w hw
  exact hs k l v₀ w₀ hv₀ hw₀ ((hvwrite.active hx).symm.trans hvact) ((hwwrite.active hx).symm.trans hwact)

/-- Settles O11: a cycle leaves at most its own device active, and a lawful host step writes no `active`. -/
theorem stepKeepsAtMostOneActive : Obligations.StepKeepsAtMostOneActive := by
  unfold Obligations.StepKeepsAtMostOneActive
  intro s t hs hl h
  refine step_keeps State.OneActive (fun _ _ _ _ hu => hu) ?_ ?_ hs h
  · intro i d u t dev dev' effs _ hc _ _ hres
    exact hres.oneActive hc
  · intro x hx u hu _
    exact (hostStep_inv x u).oneActive (hl x hx) hu

/-! ### Settled states -/

theorem State.Settled.quiescent {s : State} (h : s.Settled) (hb : s.blocked = false) : s.Quiescent := by
  rcases h with hq | ⟨d, hheld⟩
  · exact hq
  · rw [hheld.blocked] at hb
    cases hb

/-- A cycle that ended leaves the quiescent point, one whose Poll never returns a held engine (R162, R255). -/
theorem CycleResult.settled {i : Instr} {u t : State} {d : Nat} {dev dev' : Device} {effs : List Effect}
    (h : CycleResult i u t d dev dev' effs) (hd : u.devices[d]? = some dev) (hu : u.Quiescent) : t.Settled := by
  have hothers : ∀ k w, k ≠ d → t.devices[k]? = some w → w.idle := by
    intro k w hk hw
    rcases h.device_cases hw with ⟨heq, -⟩ | ⟨-, hother⟩
    · exact absurd heq hk
    · exact hu.devices w (List.mem_of_getElem? hother)
  rcases h.ending with ⟨hact, hst, hreg, hblk, -⟩ | ⟨-, hblk, hact, hready, hlow, hreg⟩
  · refine .inl ⟨hblk.trans hu.running, hreg, fun w hw => ?_⟩
    obtain ⟨k, hk⟩ := List.mem_iff_getElem?.mp hw
    rcases h.device_cases hk with ⟨-, rfl⟩ | ⟨hne, -⟩
    · exact ⟨hact, .inl hst⟩
    · exact hothers k w hne hk
  · exact .inr ⟨d, hblk, ⟨dev', h.device_self hd, hact, hready, hlow⟩, hothers, hreg⟩

theorem HostWrite.idle {x : Input} {dev dev' : Device} (h : HostWrite x dev dev') (hx : x.forbidden = false)
    (hdev : dev.idle) : dev'.idle := by
  obtain ⟨hact, hst⟩ := hdev
  refine ⟨(h.active hx).trans hact, ?_⟩
  rcases h.state with hkept | hwritten
  · rwa [hkept]
  · exact hwritten

theorem HostResult.quiescent {x : Input} {s t : State} (h : HostResult x s t) (hx : x.forbidden = false)
    (hs : s.Quiescent) : t.Quiescent where
  running := h.blocked.trans hs.running
  registry := (h.registry hx).trans hs.registry
  devices w hw := by
    obtain ⟨k, hk⟩ := List.mem_iff_getElem?.mp hw
    obtain ⟨v, hv, hwrite⟩ := h.devices k w hk
    exact hwrite.idle hx (hs.devices v (List.mem_of_getElem? hv))

theorem State.Settled.congr {s t : State} (hs : s.Settled) (hblk : t.blocked = s.blocked)
    (hreg : t.registry = s.registry) (hdev : t.devices = s.devices) : t.Settled := by
  rcases hs with ⟨hr, hn, hi⟩ | ⟨d, hb, hh, ho, hn⟩
  · exact .inl ⟨hblk.trans hr, hreg.trans hn, by rwa [hdev]⟩
  · exact .inr ⟨d, hblk.trans hb, by rwa [hdev], by rwa [hdev], by rwa [hreg]⟩

theorem step_settled {s t : State} (hs : s.Settled) (hl : s.Lawful) (h : step s = .next t) : t.Settled := by
  refine step_keeps State.Settled (fun u _ _ _ hu => hu.congr rfl rfl rfl) ?_ ?_ hs h
  · intro i d u t dev dev' effs hu _ hb hd hres
    exact hres.settled hd (hu.quiescent hb)
  · intro x hx u hu hb
    exact .inl ((hostStep_inv x u).quiescent (hl x hx) (hu.quiescent hb))

/-! ### Runs -/

/-- What every step keeps, a run keeps. -/
theorem runSteps_keeps (P : State → Prop) (hstep : ∀ u v, P u → step u = .next v → P v) :
    ∀ (n : Nat) {s t : State}, P s → runSteps n s = .next t → P t := by
  intro n
  induction n with
  | zero => intro s t hs h; cases h; exact hs
  | succ n ih =>
    intro s t hs h
    unfold runSteps at h
    split at h
    · next v hv => exact ih (hstep s v hs hv) h
    · cases h
    · cases h

theorem runSteps_add {m : Nat} (n : Nat) {s u : State} (h : runSteps m s = .next u) :
    runSteps (m + n) s = runSteps n u := by
  induction m generalizing s with
  | zero => cases h; rw [Nat.zero_add]
  | succ m ih =>
    rw [Nat.succ_add]
    simp only [runSteps] at h ⊢
    split at h
    · exact ih h
    · cases h
    · cases h

theorem State.over_iff {s : State} : s.over = true ↔ s.blocked = false ∧ s.pending = [] ∧ s.inputs = [] := by
  simp [State.over, and_assoc]

/-- A run that is over idles (R274). -/
theorem step_of_over {s : State} (h : s.over = true) : step s = .next s := by
  obtain ⟨hb, hp, hi⟩ := State.over_iff.mp h
  simp [step, fetch, betweenCycles, hb, hp, hi]

theorem runSteps_of_over {s : State} (h : s.over = true) (n : Nat) : runSteps n s = .next s := by
  induction n with
  | zero => rfl
  | succ n ih => rw [runSteps, step_of_over h]; exact ih

/-- The shorter of two runs that end idles until the longer one ends. -/
theorem runSteps_unique_of_le {s t t' : State} {m n : Nat} (hmn : m ≤ n) (ht : runSteps m s = .next t)
    (hover : t.over = true) (ht' : runSteps n s = .next t') : t = t' := by
  rw [← Nat.add_sub_cancel' hmn, runSteps_add _ ht, runSteps_of_over hover] at ht'
  exact Host.Outcome.next.inj ht'

theorem RunEnds.unique {s t t' : State} (h : RunEnds s t) (h' : RunEnds s t') : t = t' := by
  obtain ⟨m, ht, hover⟩ := h
  obtain ⟨n, ht', hover'⟩ := h'
  rcases Nat.le_total m n with hmn | hnm
  · exact runSteps_unique_of_le hmn ht hover ht'
  · exact (runSteps_unique_of_le hnm ht' hover' ht).symm

/-- A finished run from a settled lawful state is at the quiescent point, with nothing retained. -/
theorem RunEnds.quiescent {s t : State} (hs : s.Settled) (hl : s.Lawful) (h : RunEnds s t) :
    t.Quiescent ∧ t.pending = [] := by
  obtain ⟨n, ht, hover⟩ := h
  obtain ⟨hb, hp, -⟩ := State.over_iff.mp hover
  obtain ⟨hsettled, -⟩ : t.Settled ∧ t.Lawful := runSteps_keeps (fun u => u.Settled ∧ u.Lawful)
    (fun _ _ ⟨hus, hul⟩ hv => ⟨step_settled hus hul hv, step_lawful hul hv⟩) n ⟨hs, hl⟩ ht
  exact ⟨hsettled.quiescent hb, hp⟩

theorem start_settled (cfg : Config) (storage : Memory) (inputs : List Input) (envs : List Env) :
    (State.start cfg storage inputs envs).Settled :=
  State.Settled.congr (.inl (boot_quiescent cfg storage)) rfl rfl rfl

/-- Settles O10: the settled state is kept by each step and so by a run, and a finished run idles in its last state. -/
theorem stepKeepsTheQuiescentPoint : Obligations.StepKeepsTheQuiescentPoint := by
  unfold Obligations.StepKeepsTheQuiescentPoint
  refine ⟨fun s t hs hl h => step_settled hs hl h, fun cfg storage inputs envs t hl h => ?_, fun s t t' h h' => ?_⟩
  · exact h.quiescent (start_settled cfg storage inputs envs) hl
  · rw [h.unique h']

end Sys2Proof.Machine
end

section
/-! PROOFS. Memory family, O14: which record a step runs (20_memory.md R58, 60_exceptions.md R239). -/

namespace Sys2Proof.Machine

theorem fetch_pending {s : State} {w : Record} {rest : List Record} (hb : s.blocked = false)
    (hp : s.pending = w :: rest) : fetch s = some (w, { s with pending := rest }) := by
  simp [fetch, hb, hp]

theorem fetch_input {s : State} {w : Record} {rest : List Input} (hb : s.blocked = false) (hp : s.pending = [])
    (hi : s.inputs = .record w :: rest) : fetch s = some (w, { s with inputs := rest }) := by
  simp [fetch, hb, hp, hi]

theorem step_of_fetch {s t : State} {w : Record} (h : fetch s = some (w, t)) : step s = exec (decode w) t := by
  simp [step, h]

/-- Settles O14: the two sources of a fetched record, in their order (log entry 9). -/
theorem stepRunsTheDecodedRecord : Obligations.StepRunsTheDecodedRecord := by
  unfold Obligations.StepRunsTheDecodedRecord
  exact ⟨fun _ _ _ hb hp => step_of_fetch (fetch_pending hb hp),
    fun _ _ _ hb hp hi => step_of_fetch (fetch_input hb hp hi)⟩

end Sys2Proof.Machine
end

section
/-! PROOFS. Memory family, O41: which storage bytes a command may write (20_memory.md R56, 42_commands_basic.md R166,
R167). -/

namespace Sys2Proof.Machine

theorem WritesNothing.append {effs effs' : List Effect} (h : WritesNothing effs) (h' : WritesNothing effs') :
    WritesNothing (effs ++ effs') :=
  fun k b hmem => (List.mem_append.mp hmem).elim (h k b) (h' k b)

/-- From `s` to `t` no storage was written, and no StorageWrite was emitted. -/
def StorageUntouched (s t : State) : Prop :=
  t.storage = s.storage ∧ ∃ effs, t.trace = s.trace ++ effs ∧ WritesNothing effs

theorem StorageUntouched.refl (s : State) : StorageUntouched s s :=
  ⟨rfl, [], (List.append_nil _).symm, nofun⟩

theorem StorageUntouched.trans {s u t : State} (hsu : StorageUntouched s u) (hut : StorageUntouched u t) :
    StorageUntouched s t := by
  obtain ⟨hstorage, effs, htrace, hwrites⟩ := hsu
  obtain ⟨hstorage', effs', htrace', hwrites'⟩ := hut
  exact ⟨hstorage'.trans hstorage, effs ++ effs', by rw [htrace', htrace, List.append_assoc],
    hwrites.append hwrites'⟩

/-- A rejection reply writes no storage (R172). -/
theorem storageUntouched_reject (u : State) (d : Nat) : StorageUntouched u (u.reject d) := by
  rw [State.reject_eq]
  exact ⟨rfl, _, rfl, fun k b hmem => by simp at hmem⟩

theorem CycleResult.storageUntouched {i : Instr} {u t : State} {d : Nat} {dev dev' : Device} {effs : List Effect}
    (h : CycleResult i u t d dev dev' effs) (hi : i.mclass ≠ .addressChange) : StorageUntouched u t :=
  ⟨by rw [h.storage, if_neg hi], effs, h.trace, h.writes hi⟩

theorem exec_storageUntouched {i : Instr} {s t : State} (hi : i.mclass ≠ .addressChange) (h : exec i s = .next t) :
    StorageUntouched s t :=
  exec_keeps i (StorageUntouched s) (fun d u hu _ _ => hu.trans (storageUntouched_reject u d))
    (fun _ _ _ _ _ _ hu _ _ _ _ hres => hu.trans (hres.storageUntouched hi)) (.refl s) h

theorem readdressStorage_refused {p : BitVec 16} (h : acceptedAddress p = none) (dev : Device) (m : Memory) :
    readdressStorage p dev m = m := by
  simp [readdressStorage, h]

/-- The mirror of an address change is written to the device's own slot only (R167). -/
theorem read_readdressStorage (p : BitVec 16) {dev : Device} {m : Memory} {x : Nat} (hm : m.wf = true)
    (hx : dev.storageSlot ≠ some x) : (readdressStorage p dev m).read x = m.read x := by
  unfold readdressStorage mirrored
  split
  · split
    · next k hk =>
      have hne : x ≠ k := by rintro rfl; exact hx hk
      rw [Memory.read_write hm, if_neg hne]
    · rfl
  · rfl

/-- The cycle of ACHG mirrors the accepted byte, if any (R166, R167). -/
theorem CycleResult.achg_storage {a : Byte} {p1 p2 : BitVec 16} {u t : State} {d : Nat} {dev dev' : Device}
    {effs : List Effect} (h : CycleResult (.achg a p1 p2) u t d dev dev' effs) :
    t.storage = readdressStorage p1 dev u.storage := h.storage

/-- The byte at `x` stands outside the command's reach: no device that takes a command addressed to `a` has the slot
`x`, and storage is in canonical form. -/
structure State.SlotFree (u : State) (a : Byte) (x : Nat) : Prop where
  slots : ∀ dev ∈ u.devices, dev.takes a = true → dev.storageSlot ≠ some x
  storage : u.storage.wf = true

/-- A served device keeps its slot, so that what it may write next stays away from `x` too. -/
theorem CycleResult.slotFree {a : Byte} {p1 p2 : BitVec 16} {u t : State} {d x : Nat} {dev dev' : Device}
    {effs : List Effect} (h : CycleResult (.achg a p1 p2) u t d dev dev' effs) (hd : u.devices[d]? = some dev)
    (htakes : dev.takes a = true) (hu : u.SlotFree a x) : t.SlotFree a x where
  slots w hw hwt := by
    obtain ⟨k, hk⟩ := List.mem_iff_getElem?.mp hw
    rcases h.device_cases hk with ⟨-, rfl⟩ | ⟨-, hother⟩
    · rw [h.slot]
      exact hu.slots dev (List.mem_of_getElem? hd) htakes
    · exact hu.slots w (List.mem_of_getElem? hother) hwt
  storage := by
    rw [h.achg_storage]
    exact readdressStorage_wf _ _ hu.storage

theorem achg_refused_storage {a : Byte} {p1 p2 : BitVec 16} {s t : State} (hp : acceptedAddress p1 = none)
    (h : exec (.achg a p1 p2) s = .next t) : t.storage = s.storage := by
  refine exec_keeps (.achg a p1 p2) (fun u => u.storage = s.storage) (fun _ _ hu _ _ => hu) ?_ rfl h
  intro d u t dev dev' effs hu _ _ _ _ hres
  rw [hres.achg_storage, readdressStorage_refused hp, hu]

theorem achg_read_of_slotFree {a : Byte} {p1 p2 : BitVec 16} {s t : State} {x : Nat} (hs : s.SlotFree a x)
    (h : exec (.achg a p1 p2) s = .next t) : t.storage.read x = s.storage.read x := by
  suffices hkept : t.SlotFree a x ∧ t.storage.read x = s.storage.read x from hkept.2
  refine exec_keeps (.achg a p1 p2) (fun u => u.SlotFree a x ∧ u.storage.read x = s.storage.read x)
    (fun _ _ hu _ hi => absurd hi nofun) ?_ ⟨hs, rfl⟩ h
  rintro d u t dev dev' effs ⟨hfree, hread⟩ _ _ hd htakes hres
  refine ⟨hres.slotFree hd htakes hfree, ?_⟩
  have hslot : dev.storageSlot ≠ some x := hfree.slots dev (List.mem_of_getElem? hd) htakes
  rw [hres.achg_storage, read_readdressStorage p1 hfree.storage hslot, hread]

/-- Settles O41: every device's cycle leaves storage alone, or writes its own slot in an accepted address change. -/
theorem storageIsWrittenOnlyByAddressChange : Obligations.StorageIsWrittenOnlyByAddressChange := by
  unfold Obligations.StorageIsWrittenOnlyByAddressChange
  exact ⟨fun _ _ _ hi h => exec_storageUntouched hi h, fun _ _ _ _ _ hwf h =>
    ⟨fun hp => achg_refused_storage hp h, fun _ hslots => achg_read_of_slotFree ⟨hslots, hwf⟩ h⟩⟩

end Sys2Proof.Machine
end

section
/-! PROOFS. Memory family: the length of a field's text (40_numeric_encoder.md R115, R121). It is at most one byte
beyond the field cap: the rounding may carry into one more integral digit, everything else stays within the budget. -/

namespace Sys2Proof.Machine

/-! ### The number of digits of a numeral -/

theorem length_decAcc (fuel m : Nat) (acc : Bytes) (h : m < fuel) :
    (decAcc fuel m acc).length = Nat.log 10 m + 1 + acc.length := by
  induction fuel generalizing m acc with
  | zero => omega
  | succ fuel ih =>
    unfold decAcc
    split
    · next hm =>
      rw [Nat.log_of_lt hm, List.length_cons]
      omega
    · next hm =>
      rw [ih _ _ (by omega), Nat.log_of_one_lt_of_le (by decide : 1 < 10) (by omega : 10 ≤ m), List.length_cons]
      omega

theorem ndigits_eq_log (m : Nat) : ndigits m = Nat.log 10 m + 1 := length_decAcc (m + 1) m [] (Nat.lt_succ_self m)

theorem ndigits_mono {m n : Nat} (h : m ≤ n) : ndigits m ≤ ndigits n := by
  rw [ndigits_eq_log, ndigits_eq_log]
  exact Nat.succ_le_succ (Nat.log_mono_right h)

/-- A carry into the integral numeral makes it longer by at most one digit (R111). -/
theorem ndigits_succ_le (m : Nat) : ndigits (m + 1) ≤ ndigits m + 1 := by
  have hpow : m + 1 ≤ 10 ^ (Nat.log 10 m + 1) := Nat.lt_pow_succ_log_self (by decide) m
  have hlog := Nat.log_mono_right (b := 10) hpow
  rw [Nat.log_pow (by decide)] at hlog
  rw [ndigits_eq_log, ndigits_eq_log]
  omega

theorem ndigits_le_of_lt_pow {m k : Nat} (hk : 0 < k) (h : m < 10 ^ k) : ndigits m ≤ k := by
  rw [ndigits_eq_log]
  exact Nat.log_lt_of_lt_pow' (by omega) h

theorem length_decpad {m k : Nat} (hk : 0 < k) (h : m < 10 ^ k) : (decpad m k).length = k := by
  have hle : (dec m).length ≤ k := ndigits_le_of_lt_pow hk h
  rw [decpad, List.length_append, List.length_replicate]
  omega

/-! ### The digits of step 6 and their strip -/

theorem roundRetained_le (k : Nat) (r : F64) : roundRetained k r ≤ k + 1 := by
  unfold roundRetained
  repeat' split
  all_goals omega

/-- Rounding in units of `1 / c` carries at most into the next integer. -/
theorem roundHalfEven_mul_div_le {n s w c : Nat} (hc : 0 < c) (h : n < (w + 1) * 2 ^ s) :
    roundHalfEven (n * c) s / c ≤ w + 1 := by
  have hfloor : n * c / 2 ^ s < (w + 1) * c := by
    rw [Nat.div_lt_iff_lt_mul (Nat.two_pow_pos s), Nat.mul_right_comm]
    exact Nat.mul_lt_mul_of_pos_right h hc
  have hround : roundHalfEven (n * c) s ≤ (w + 1) * c := (roundHalfEven_bounds (n * c) s).2.trans hfloor
  exact Nat.div_le_of_le_mul (hround.trans_eq (Nat.mul_comm _ _))

theorem fixedDigits_whole_le (mag : F64) (p : Nat) : (fixedDigits mag p).1 ≤ F64.integerPart mag + 1 := by
  obtain ⟨u, hu, hunit⟩ := F64.exists_unit_eq
  have hscaled := (F64.integerPart_bounds mag).2
  rw [hunit, hu] at hscaled
  exact roundHalfEven_mul_div_le (Nat.pow_pos (by decide)) hscaled

theorem digitsOf_whole_le (mag : F64) (p : Nat) : (digitsOf mag p).1 ≤ F64.integerPart mag + 1 := by
  unfold digitsOf
  split
  · exact fixedDigits_whole_le mag p
  · split
    · exact roundRetained_le _ _
    · unfold fastDigits
      dsimp only
      split <;> dsimp only <;> omega

theorem digitsOf_frac_lt (mag : F64) (p : Nat) : (digitsOf mag p).2 < 10 ^ p := by
  have hpos : 0 < 10 ^ p := Nat.pow_pos (by decide)
  unfold digitsOf
  split
  · exact Nat.mod_lt _ hpos
  · split
    · exact hpos
    · unfold fastDigits
      dsimp only
      split <;> dsimp only <;> omega

theorem strip_bounds (p frac : Nat) (h : frac < 10 ^ p) :
    (strip p frac).2 ≤ p ∧ (strip p frac).1 < 10 ^ (strip p frac).2 := by
  induction p generalizing frac with
  | zero => exact ⟨Nat.le_refl 0, h⟩
  | succ p ih =>
    unfold strip
    split
    · obtain ⟨hcount, hfrac⟩ := ih (frac / 10) (by rw [Nat.pow_succ] at h; omega)
      exact ⟨by omega, hfrac⟩
    · exact ⟨Nat.le_refl _, h⟩

theorem shownFraction_bounds (p frac : Nat) (ktz : Bool) (h : frac < 10 ^ p) :
    (shownFraction p frac ktz).2 ≤ p ∧ (shownFraction p frac ktz).1 < 10 ^ (shownFraction p frac ktz).2 := by
  cases ktz
  · exact strip_bounds p frac h
  · exact ⟨Nat.le_refl p, h⟩

/-! ### The text -/

theorem length_signChars (neg plus : Bool) : (signChars neg plus).length = (neg || plus).toNat := by
  cases neg <;> cases plus <;> rfl

theorem length_assemble (neg plus : Bool) (whole : Nat) {frac count : Nat} (h : frac < 10 ^ count) :
    (assemble neg plus whole frac count).length =
      (neg || plus).toNat + ndigits whole + (if 0 < count then count + 1 else 0) := by
  simp only [assemble, List.length_append, length_signChars, ndigits]
  split
  · next hcount => rw [List.length_cons, length_decpad hcount h]
  · rfl

/-- What the fit step leaves of the precision (R106, R107): nothing, or a fraction that fits the budget. -/
theorem fitPrecision_bounds {cap n p q : Nat} {signed : Bool} (hcap : 0 < cap)
    (h : fitPrecision cap n p signed = some q) :
    n < cap ∧ (q = 0 ∨ n + q + 1 + signed.toNat ≤ cap) := by
  unfold fitPrecision at h
  rw [if_neg (by omega)] at h
  split at h
  · cases h
  · next hn =>
    have hsign : (if signed then 0 else 1 : Int) = 1 - signed.toNat := by cases signed <;> rfl
    obtain rfl := Option.some.inj h
    rw [hsign]
    refine ⟨by omega, ?_⟩
    split <;> omega

/-- The text of a value that does not overflow, at its effective precision (R101). -/
theorem encodeValue_ok {v : F64} {p l : BitVec 8} {ktz plus : Bool} {text : Bytes}
    (h : encodeValue v p l ktz plus = .ok text) :
    ∃ q, effectivePrecision v p l plus = some q ∧
      text = assemble (F64.lt v 0) plus (digitsOf (magnitude v) q).1
        (shownFraction q (digitsOf (magnitude v) q).2 ktz).1 (shownFraction q (digitsOf (magnitude v) q).2 ktz).2 := by
  unfold encodeValue at h
  split at h
  · cases h
  · split at h
    · cases h
    · dsimp only at h
      split at h
      · cases h
      · next q hq => exact ⟨q, hq, (Field.ok.inj h).symm⟩

/-- R121: with a field cap the text exceeds it by at most one byte. -/
theorem length_encodeValue_le {v : F64} {p l : BitVec 8} {ktz plus : Bool} {text : Bytes} (hl : 0 < l.toNat)
    (h : encodeValue v p l ktz plus = .ok text) : text.length ≤ l.toNat + 1 := by
  obtain ⟨q, hq, rfl⟩ := encodeValue_ok h
  obtain ⟨hn, hbudget⟩ := fitPrecision_bounds hl hq
  obtain ⟨hcount, hfrac⟩ := shownFraction_bounds q _ ktz (digitsOf_frac_lt (magnitude v) q)
  have hwhole : ndigits (digitsOf (magnitude v) q).1 ≤ ndigits (F64.integerPart (magnitude v)) + 1 :=
    (ndigits_mono (digitsOf_whole_le _ q)).trans (ndigits_succ_le _)
  rw [length_assemble _ _ _ hfrac]
  have hsign := Bool.toNat_le (F64.lt v 0 || plus)
  split <;> omega

theorem length_encodeValue_text_le {v : F64} {p l : BitVec 8} {ktz plus : Bool} (hl : 0 < l.toNat) :
    (encodeValue v p l ktz plus).text.length ≤ max 3 (l.toNat + 1) := by
  cases hfield : encodeValue v p l ktz plus with
  | ok text => exact (length_encodeValue_le hl hfield).trans (Nat.le_max_right _ _)
  | overflow => exact Nat.le_max_left _ _

end Sys2Proof.Machine
end

section
/-! PROOFS. Memory family, O12: no line reaches LONG_CAP (20_memory.md R52, 41_response_formatter.md R143, R146). -/

namespace Sys2Proof.Machine

/-- A field that alone stays under the cap is appended only while the line stays under it (R143). -/
theorem fillLines_below {cap : Nat} {fields : List Bytes} {cur : Bytes} (hfields : ∀ f ∈ fields, f.length < cap)
    (hcur : cur.length < cap) : ∀ l ∈ fillLines true cap fields cur, l.length < cap := by
  induction fields generalizing cur with
  | nil => simpa [fillLines] using hcur
  | cons f fs ih =>
    obtain ⟨hf, hfs⟩ := List.forall_mem_cons.mp hfields
    unfold fillLines
    split
    · next hfit => exact ih hfs (by simpa [fits] using hfit)
    · exact List.forall_mem_cons.mpr ⟨hcur, ih hfs hf⟩

theorem pack_below {slots cap : Nat} {vals : List F64} {p fcap : BitVec 8} {ls : List Bytes} (hcap : 0 < cap)
    (hfields : ∀ v ∈ vals, (packField p fcap v).length < cap) (h : pack slots true vals p fcap cap = some ls) :
    ∀ l ∈ ls, l.length < cap := by
  simp only [pack] at h
  split at h
  · rw [← Option.some.inj h]
    refine List.forall_mem_append.mpr ⟨fillLines_below (List.forall_mem_map.mpr hfields) hcap, fun l hl => ?_⟩
    rw [List.eq_of_mem_replicate hl]
    exact hcap
  · cases h

/-- The configurations R52's bound is stated for: PACK_STRICT, and the widest field fits a short line (R146 (i)). -/
structure FieldsFit (cfg : Config) : Prop where
  strict : cfg.packStrict = true
  capped : 0 < cfg.fieldCap.toNat
  short : cfg.fieldCap.toNat + 1 < 35

theorem FieldsFit.packField_lt {cfg : Config} (h : FieldsFit cfg) (p : BitVec 8) (v : F64) :
    (packField p cfg.fieldCap v).length < 35 :=
  (length_encodeValue_text_le h.capped).trans_lt (max_lt (by decide) h.short)

/-- What PACK writes and what CLEAR writes stays under LONG_CAP. -/
theorem LinesWritten.below {cfg : Config} {ls : List Bytes} (hcfg : FieldsFit cfg) (h : LinesWritten cfg ls) :
    ∀ l ∈ ls, l.length < 75 := by
  rcases h with rfl | ⟨cap, vals, hcap, hpack⟩
  · intro l hl
    rw [List.eq_of_mem_replicate hl]
    decide
  · obtain ⟨hlow, hhigh⟩ : 35 ≤ cap ∧ cap ≤ 75 := by rcases hcap with rfl | rfl <;> decide
    rw [packAt, hcfg.strict] at hpack
    have hfields : ∀ v ∈ vals.toList, (packField packPrecision cfg.fieldCap v).length < cap := fun v _ =>
      (hcfg.packField_lt _ v).trans_le hlow
    exact fun l hl => (pack_below (by omega) hfields hpack l hl).trans_le hhigh

theorem CycleResult.linesBelow {i : Instr} {u t : State} {d : Nat} {dev dev' : Device} {effs : List Effect}
    (h : CycleResult i u t d dev dev' effs) (hd : u.devices[d]? = some dev) (hcfg : FieldsFit u.cfg)
    (hu : u.LinesBelow 75) : t.LinesBelow 75 := by
  intro w hw
  obtain ⟨k, hk⟩ := List.mem_iff_getElem?.mp hw
  rcases h.device_cases hk with ⟨-, rfl⟩ | ⟨-, hother⟩
  · rcases h.lines with hkept | ⟨-, -, -, hwritten⟩
    · rw [hkept]
      exact hu dev (List.mem_of_getElem? hd)
    · exact hwritten.below hcfg
  · exact hu w (List.mem_of_getElem? hother)

theorem HostResult.linesBelow {x : Input} {s t : State} {cap : Nat} (h : HostResult x s t) (hs : s.LinesBelow cap) :
    t.LinesBelow cap := by
  intro w hw
  obtain ⟨k, hk⟩ := List.mem_iff_getElem?.mp hw
  obtain ⟨v, hv, hwrite⟩ := h.devices k w hk
  rw [hwrite.lines]
  exact hs v (List.mem_of_getElem? hv)

/-- Settles O12: a cycle keeps its device's lines, clears them or packs fields that fit a short line; host steps write
no line. -/
theorem stepKeepsLinesBelowLongCap : Obligations.StepKeepsLinesBelowLongCap := by
  unfold Obligations.StepKeepsLinesBelowLongCap
  intro s t hstrict hcapped hshort hs h
  suffices hkept : FieldsFit t.cfg ∧ t.LinesBelow 75 from hkept.2
  refine step_keeps (fun u => FieldsFit u.cfg ∧ u.LinesBelow 75) (fun _ _ _ _ hu => hu) ?_ ?_
    ⟨⟨hstrict, hcapped, hshort⟩, hs⟩ h
  · rintro i d u t dev dev' effs ⟨hcfg, hlines⟩ - - hd hres
    exact ⟨by rwa [hres.cfg], hres.linesBelow hd hcfg hlines⟩
  · rintro x - u ⟨hcfg, hlines⟩ -
    exact ⟨by rwa [(hostStep_inv x u).cfg], (hostStep_inv x u).linesBelow hlines⟩

end Sys2Proof.Machine
end

section
/-! PROOFS. Encoding family, O3: the 48-bit word of a record as a number, and as its five fields (30_encoding.md R71). -/

namespace Sys2Proof

theorem toNat_encodeFields (a : Byte) (pr se : BitVec 4) (p1 p2 : BitVec 16) :
    (encodeFields a pr se p1 p2).toNat =
      a.toNat * 2 ^ 40 + pr.toNat * 2 ^ 36 + se.toNat * 2 ^ 32 + p1.toNat * 2 ^ 16 + p2.toNat := by
  simp only [encodeFields, BitVec.toNat_append, Nat.shiftLeft_eq]
  rw [shift_or_eq_add 4 _ _ se.isLt, shift_or_eq_add 4 _ _ pr.isLt, shift_or_eq_add 16 _ _ p1.isLt,
    shift_or_eq_add 16 _ _ p2.isLt]
  omega

/-- The five fields cover the word: none of its 48 bits is outside them. -/
theorem encodeFields_of_fields (w : Record) :
    encodeFields (Record.address w) (Record.primary w) (Record.secondary w) (Record.param1 w) (Record.param2 w) = w := by
  apply BitVec.eq_of_toNat_eq
  simp only [toNat_encodeFields, Record.address, Record.primary, Record.secondary, Record.param1, Record.param2,
    BitVec.extractLsb'_toNat, Nat.shiftRight_eq_div_pow]
  omega

/-- Settles O3: the encoder places the instruction's fields, and the word of five fields is their sum. -/
theorem wordLayoutHoldsEveryField : Obligations.WordLayoutHoldsEveryField := by
  unfold Obligations.WordLayoutHoldsEveryField
  exact fun i => toNat_encodeFields i.address i.primaryCode i.secondaryCode i.param1 i.param2

end Sys2Proof
end

section
/-! PROOFS. Encoding family, O1, O2, O5: the verdict on five fields keeps them, and it is UNKNOWN exactly for a pair
that R73 does not admit (30_encoding.md R72, R73, R83). -/

namespace Sys2Proof

/-- Each row before the last stands at an admitted pair, and they leave the last row the pairs that are not admitted. -/
theorem decodeFields_eq_unknown_iff (a : Byte) (pr se : BitVec 4) (p1 p2 : BitVec 16) :
    decodeFields a pr se p1 p2 = .unknown a pr se p1 p2 ↔ admitted pr se = false := by
  unfold decodeFields
  split
  case h_27 =>
    simp only [true_iff, imp_false, admitted] at *
    split <;> simp_all [← BitVec.toNat_inj]
    omega -- Identification, whose rows are 0 to 6
  all_goals
    next hpr hse => simp [admitted, hpr, hse, ← BitVec.toNat_inj]

/-- The verdict drops no field. -/
theorem decodeFields_fields (a : Byte) (pr se : BitVec 4) (p1 p2 : BitVec 16) :
    (decodeFields a pr se p1 p2).address = a ∧ (decodeFields a pr se p1 p2).primaryCode = pr ∧
      (decodeFields a pr se p1 p2).secondaryCode = se ∧ (decodeFields a pr se p1 p2).param1 = p1 ∧
      (decodeFields a pr se p1 p2).param2 = p2 := by
  unfold decodeFields
  split
  case h_27 => exact ⟨rfl, rfl, rfl, rfl, rfl⟩
  all_goals
    next hpr hse =>
      exact ⟨rfl, BitVec.eq_of_toNat_eq hpr.symm, BitVec.eq_of_toNat_eq hse.symm, rfl, rfl⟩

theorem encode_decodeFields (a : Byte) (pr se : BitVec 4) (p1 p2 : BitVec 16) :
    encode (decodeFields a pr se p1 p2) = encodeFields a pr se p1 p2 := by
  obtain ⟨ha, hpr, hse, hp1, hp2⟩ := decodeFields_fields a pr se p1 p2
  rw [encode, ha, hpr, hse, hp1, hp2]

/-- Only an UNKNOWN verdict can be ill formed, and the decoder gives it to a pair that is not admitted (R83). -/
theorem wellFormed_decodeFields (a : Byte) (pr se : BitVec 4) (p1 p2 : BitVec 16) :
    WellFormed (decodeFields a pr se p1 p2) = true := by
  obtain ⟨ha, hpr, hse, hp1, hp2⟩ := decodeFields_fields a pr se p1 p2
  have hunknown := (decodeFields_eq_unknown_iff a pr se p1 p2).mp
  cases hi : decodeFields a pr se p1 p2 with
  | unknown a' pr' se' p1' p2' =>
    rw [hi] at ha hpr hse hp1 hp2 hunknown
    obtain ⟨rfl, rfl, rfl, rfl, rfl⟩ : a' = a ∧ pr' = pr ∧ se' = se ∧ p1' = p1 ∧ p2' = p2 := ⟨ha, hpr, hse, hp1, hp2⟩
    simp [WellFormed, hunknown rfl]
  | _ => rfl

/-- The verdict on a well-formed instruction's own fields is the instruction. -/
theorem decodeFields_of_wellFormed {i : Instr} (h : WellFormed i = true) :
    decodeFields i.address i.primaryCode i.secondaryCode i.param1 i.param2 = i := by
  cases i with
  | unknown a pr se p1 p2 => exact (decodeFields_eq_unknown_iff a pr se p1 p2).mpr (by simpa [WellFormed] using h)
  | meas a q p1 p2 | conc a q p1 p2 | hva a q p1 p2 | hvb a q p1 p2 | cont a q p1 p2 | data a q p1 p2
  | bdata a q p1 p2 | verify a q p1 p2 => cases q <;> rfl
  | _ => rfl

/-- Settles O1: the word of an instruction decodes by its fields, and they give the instruction back. -/
theorem decodeOfEncodeIsIdentity : Obligations.DecodeOfEncodeIsIdentity := by
  unfold Obligations.DecodeOfEncodeIsIdentity
  intro i h
  rw [encode, decode_encodeFields, decodeFields_of_wellFormed h]

/-- Settles O2: the verdict keeps the five fields of the word, which cover it. -/
theorem encodeOfDecodeIsIdentity : Obligations.EncodeOfDecodeIsIdentity := by
  unfold Obligations.EncodeOfDecodeIsIdentity
  exact fun w => ⟨wellFormed_decodeFields _ _ _ _ _, (encode_decodeFields _ _ _ _ _).trans (encodeFields_of_fields w)⟩

/-- Settles O5: the word decodes by its fields, whose verdict is UNKNOWN exactly for a pair R73 does not admit. -/
theorem unadmittedPairIsUnknown : Obligations.UnadmittedPairIsUnknown := by
  unfold Obligations.UnadmittedPairIsUnknown
  intro a pr se p1 p2
  rw [decode_encodeFields]
  exact decodeFields_eq_unknown_iff a pr se p1 p2

end Sys2Proof
end

section
/-! PROOFS. Encoding family, O4: the decoder and the opcode table read the same pair (`primary`, `secondary`) of a word
and give every pair the same verdict (30_encoding.md R87). -/

namespace Sys2Proof

/-- The bits 39:32 of a record: `primary` and `secondary` (R71). -/
def pairMask : Record := 0x00FF00000000

/-- What the mask leaves of a word: its pair, with every other field zero. -/
theorem and_pairMask (w : Record) :
    w &&& pairMask = encodeFields 0 (Record.primary w) (Record.secondary w) 0 0 := by
  obtain ⟨ha, hpr, hse, hp1, hp2⟩ : Record.address pairMask = 0#8 ∧ Record.primary pairMask = BitVec.allOnes 4 ∧
      Record.secondary pairMask = BitVec.allOnes 4 ∧ Record.param1 pairMask = 0#16 ∧
      Record.param2 pairMask = 0#16 := by decide
  rw [← encodeFields_of_fields (w &&& pairMask)]
  simp only [Record.address, Record.primary, Record.secondary, Record.param1, Record.param2] at ha hpr hse hp1 hp2 ⊢
  simp only [BitVec.extractLsb'_and, ha, hpr, hse, hp1, hp2, BitVec.and_zero, BitVec.and_allOnes,
    BitVec.ofNat_eq_ofNat]

/-- The masks of the table lie in the pair. -/
theorem pairMask_and_mask : ∀ r ∈ identificationRows ++ verbRows, pairMask &&& r.mask = r.mask := by decide

theorem hits_and_pairMask {r : OpcodeRow} (hr : r ∈ identificationRows ++ verbRows) (w : Record) :
    r.hits (w &&& pairMask) = r.hits w := by
  rw [OpcodeRow.hits, OpcodeRow.hits, BitVec.and_assoc, pairMask_and_mask r hr]

/-- The table's verdict depends on the word's pair alone. -/
theorem tableVerdict_and_pairMask (w : Record) : tableVerdict (w &&& pairMask) = tableVerdict w := by
  have hsecondary : Record.secondary (w &&& pairMask) = Record.secondary w := by
    obtain ⟨-, -, hse, -, -⟩ := encodeFields_fields 0 (Record.primary w) (Record.secondary w) 0 0
    rw [and_pairMask, hse]
  rw [tableVerdict, tableVerdict, hsecondary, List.find?_congr fun r hr => hits_and_pairMask hr w]

/-- The mnemonic of the decoder's verdict depends on the pair alone. -/
theorem mnemonic_decodeFields (a : Byte) (pr se : BitVec 4) (p1 p2 : BitVec 16) :
    (decodeFields a pr se p1 p2).mnemonic = (decodeFields 0 pr se 0 0).mnemonic := by
  unfold decodeFields
  split <;> rfl

/-- The decoder and the table agree on each of the 256 pairs. -/
theorem mnemonic_decodeFields_pair (pr se : BitVec 4) :
    (decodeFields 0 pr se 0 0).mnemonic = tableVerdict (encodeFields 0 pr se 0 0) := by
  revert pr se
  decide

/-- Settles O4: both verdicts are those of the word's pair. -/
theorem decoderFollowsOpcodeTable : Obligations.DecoderFollowsOpcodeTable := by
  unfold Obligations.DecoderFollowsOpcodeTable
  intro w
  rw [decode, mnemonic_decodeFields, mnemonic_decodeFields_pair, ← and_pairMask, tableVerdict_and_pairMask]

end Sys2Proof
end

section
/-! PROOFS. Encoding family, O16: a command that no device takes (30_encoding.md R84, 42_commands_basic.md R173,
60_exceptions.md R232). -/

namespace Sys2Proof.Machine

/-- A device number answers only with a device that takes the command. -/
theorem State.answers_of_untaken {s : State} {a : Byte} (h : ∀ dev ∈ s.devices, dev.takes a = false) (d : Nat) :
    s.answers a d = false := by
  cases hd : s.devices[d]? with
  | none => exact s.answers_none a d hd
  | some dev => rw [s.answers_eq a d dev hd, h dev (List.mem_of_getElem? hd), Bool.and_false]

/-- Settles O16: UNKNOWN and every other instruction is one run of the dispatch loop, in which no device answers. -/
theorem untakenCommandIsIgnored : Obligations.UntakenCommandIsIgnored := by
  unfold Obligations.UntakenCommandIsIgnored
  intro i s h
  have hsilent : ∀ d ∈ List.range s.devices.length, s.answers i.address d = false := fun d _ =>
    State.answers_of_untaken h d
  rcases exec_eq_dispatch i s with ⟨pr, se, p1, p2, hi⟩ | hi <;> rw [hi] <;> exact visit_ignored _ _ _ s hsilent

end Sys2Proof.Machine
end

section
/-! PROOFS. Encoder family: the decimal numerals of 40_numeric_encoder.md R101 and the scratch buffer of R119. A numeral
grows at its end: `dec m` is `dec (m / 10)` followed by the last digit, and so is the reversed buffer. -/

namespace Sys2Proof.Machine

/-! ### Digits and their value -/

theorem toNat_digit {d : Nat} (h : d < 10) : (digit d).toNat = 0x30 + d := by
  rw [digit, BitVec.toNat_ofNat]
  exact Nat.mod_eq_of_lt (by omega)

theorem isDigit_digit {d : Nat} (h : d < 10) : isDigit (digit d) = true := by
  simp only [isDigit, toNat_digit h, Bool.and_eq_true, decide_eq_true_eq]
  omega

theorem isDigit_iff (b : Byte) : isDigit b = true ↔ 0x30 ≤ b.toNat ∧ b.toNat ≤ 0x39 := by
  rw [isDigit, Bool.and_eq_true, decide_eq_true_eq, decide_eq_true_eq]

theorem numeral_append_digit (ds : Bytes) {d : Nat} (h : d < 10) :
    numeral (ds ++ [digit d]) = 10 * numeral ds + d := by
  rw [numeral, List.foldl_append, List.foldl_cons, List.foldl_nil, toNat_digit h, Nat.add_sub_cancel_left, numeral]

/-! ### The last digit of `dec` -/

theorem decAcc_append (fuel m : Nat) (acc acc' : Bytes) : decAcc fuel m (acc ++ acc') = decAcc fuel m acc ++ acc' := by
  induction fuel generalizing m acc with
  | zero => rfl
  | succ fuel ih =>
    unfold decAcc
    split
    · rfl
    · exact ih (m / 10) (digit (m % 10) :: acc)

/-- Fuel above the number is enough. -/
theorem decAcc_fuel {fuel fuel' m : Nat} (acc : Bytes) (h : m < fuel) (h' : m < fuel') :
    decAcc fuel m acc = decAcc fuel' m acc := by
  induction fuel generalizing fuel' m acc with
  | zero => omega
  | succ fuel ih =>
    obtain ⟨fuel', rfl⟩ := Nat.exists_eq_succ_of_ne_zero (Nat.ne_zero_of_lt h')
    unfold decAcc
    split
    · rfl
    · exact ih _ (by omega) (by omega)

theorem dec_of_lt {m : Nat} (h : m < 10) : dec m = [digit m] := by
  rw [dec, decAcc, if_pos h]

theorem dec_of_le {m : Nat} (h : 10 ≤ m) : dec m = dec (m / 10) ++ [digit (m % 10)] := by
  rw [dec, decAcc, if_neg (by omega), dec, ← decAcc_append, List.nil_append]
  exact decAcc_fuel _ (by omega) (Nat.lt_succ_self _)

/-- What holds of one digit, and of a numeral with one more digit at its end, holds of every numeral. -/
theorem dec_induction {P : Nat → Prop} (one : ∀ m, m < 10 → P m) (more : ∀ m, 10 ≤ m → P (m / 10) → P m) (m : Nat) :
    P m := by
  induction m using Nat.strong_induction_on with
  | _ m ih =>
    rcases Nat.lt_or_ge m 10 with h | h
    · exact one m h
    · exact more m h (ih _ (by omega))

theorem numeral_dec (m : Nat) : numeral (dec m) = m := by
  induction m using dec_induction with
  | one m h =>
    rw [dec_of_lt h, ← List.nil_append [digit m], numeral_append_digit [] h]
    exact Nat.zero_add m
  | more m h ih =>
    rw [dec_of_le h, numeral_append_digit _ (Nat.mod_lt m (by decide)), ih]
    omega

theorem isDigit_of_mem_dec (m : Nat) : ∀ b ∈ dec m, isDigit b = true := by
  induction m using dec_induction with
  | one m h =>
    rw [dec_of_lt h]
    exact List.forall_mem_singleton.mpr (isDigit_digit h)
  | more m h ih =>
    rw [dec_of_le h]
    exact List.forall_mem_append.mpr ⟨ih, List.forall_mem_singleton.mpr (isDigit_digit (Nat.mod_lt m (by decide)))⟩

theorem head?_dec_ne (m : Nat) {b : Byte} (h : isDigit b = false) : (dec m).head? ≠ some b := fun hd => by
  rw [isDigit_of_mem_dec m b (List.mem_of_mem_head? hd)] at h
  cases h

theorem no_point_of_mem_dec (m : Nat) : ∀ b ∈ dec m, (b != 0x2E) = true := fun b hb =>
  bne_iff_ne.mpr fun hpoint => absurd (hpoint ▸ isDigit_of_mem_dec m b hb) (by decide)

theorem dec_ne_nil (m : Nat) : dec m ≠ [] := by
  have hlen : (dec m).length = Nat.log 10 m + 1 := ndigits_eq_log m
  exact List.ne_nil_of_length_pos (by omega)

theorem head?_dec_eq_zero (m : Nat) : (dec m).head? = some 0x30 → m = 0 := by
  induction m using dec_induction with
  | one m h =>
    rw [dec_of_lt h]
    intro hzero
    have hval : (digit m).toNat = 0x30 := congrArg BitVec.toNat (Option.some.inj hzero)
    rw [toNat_digit h] at hval
    omega
  | more m h ih =>
    rw [dec_of_le h, List.head?_append_of_ne_nil _ (dec_ne_nil _)]
    intro hzero
    have := ih hzero
    omega

theorem lt_pow_ndigits (m : Nat) : m < 10 ^ ndigits m := by
  rw [ndigits_eq_log]
  exact Nat.lt_pow_succ_log_self (by decide) m

theorem ndigits_le_iff_lt_pow {m k : Nat} (hk : 0 < k) : ndigits m ≤ k ↔ m < 10 ^ k :=
  ⟨fun h => (lt_pow_ndigits m).trans_le (Nat.pow_le_pow_right (by decide) h), ndigits_le_of_lt_pow hk⟩

theorem pow_le_iff_lt_ndigits {m k : Nat} (hk : 0 < k) : 10 ^ k ≤ m ↔ k < ndigits m := by
  rw [← not_lt, ← ndigits_le_iff_lt_pow hk, not_le]

/-! ### The fraction digits of the buffer -/

theorem length_pushFraction (count frac : Nat) : (pushFraction count frac).length = count := by
  induction count generalizing frac with
  | zero => rfl
  | succ count ih => rw [pushFraction, List.length_cons, ih]

theorem reverse_pushFraction_succ (count frac : Nat) :
    (pushFraction (count + 1) frac).reverse = (pushFraction count (frac / 10)).reverse ++ [digit (frac % 10)] :=
  List.reverse_cons

theorem isDigit_of_mem_pushFraction (count frac : Nat) : ∀ b ∈ (pushFraction count frac).reverse, isDigit b = true := by
  induction count generalizing frac with
  | zero => exact fun b hb => absurd hb List.not_mem_nil
  | succ count ih =>
    rw [reverse_pushFraction_succ]
    exact List.forall_mem_append.mpr
      ⟨ih _, List.forall_mem_singleton.mpr (isDigit_digit (Nat.mod_lt frac (by decide)))⟩

/-- `frac` of `count` digits, appended to a numeral of value `numeral ds`. -/
theorem numeral_append_pushFraction (ds : Bytes) {count frac : Nat} (h : frac < 10 ^ count) :
    numeral (ds ++ (pushFraction count frac).reverse) = numeral ds * 10 ^ count + frac := by
  induction count generalizing frac with
  | zero =>
    obtain rfl : frac = 0 := Nat.lt_one_iff.mp h
    rw [pushFraction, List.reverse_nil, List.append_nil, Nat.pow_zero, Nat.mul_one, Nat.add_zero]
  | succ count ih =>
    rw [Nat.pow_succ] at h ⊢
    rw [reverse_pushFraction_succ, ← List.append_assoc, numeral_append_digit _ (Nat.mod_lt frac (by decide)),
      ih (by omega), ← Nat.mul_assoc]
    omega

/-- The buffer's fraction digits, reversed, are the padded numeral. -/
theorem reverse_pushFraction {count frac : Nat} (h : frac < 10 ^ (count + 1)) :
    (pushFraction (count + 1) frac).reverse = decpad frac (count + 1) := by
  induction count generalizing frac with
  | zero =>
    have hlt : frac < 10 := h
    rw [decpad, dec_of_lt hlt, reverse_pushFraction_succ, Nat.mod_eq_of_lt hlt]
    rfl
  | succ count ih =>
    rw [reverse_pushFraction_succ, ih (by rw [Nat.pow_succ] at h; omega), decpad, decpad]
    rcases Nat.lt_or_ge frac 10 with hlt | hge
    · rw [dec_of_lt hlt, Nat.div_eq_of_lt hlt, Nat.mod_eq_of_lt hlt, dec_of_lt (by decide)]
      exact congrArg (· ++ [digit frac]) List.replicate_succ'.symm
    · rw [dec_of_le hge, List.length_append, List.length_singleton, Nat.add_sub_add_right, List.append_assoc]

/-- Settles O56: `dec` by induction on its digits, `decpad` as the reversed fraction digits of the buffer. -/
theorem decimalNumerals : Obligations.DecimalNumerals := by
  unfold Obligations.DecimalNumerals
  refine ⟨fun m => ⟨numeral_dec m, fun b hb => (isDigit_iff b).mp (isDigit_of_mem_dec m b hb), head?_dec_eq_zero m,
    lt_pow_ndigits m, fun hm => ?_⟩, rfl, fun m k hk h => ?_⟩
  · rw [ndigits_eq_log]
    exact Nat.pow_log_le_self 10 hm.ne'
  · obtain ⟨count, rfl⟩ := Nat.exists_eq_succ_of_ne_zero hk.ne'
    refine ⟨length_decpad hk h, ?_, ?_⟩ <;> rw [← reverse_pushFraction h]
    · rw [← List.nil_append (pushFraction _ _).reverse, numeral_append_pushFraction [] h]
      change 0 * _ + m = m
      omega
    · exact fun b hb => (isDigit_iff b).mp (isDigit_of_mem_pushFraction _ _ b hb)

/-! ### The buffer is the text -/

theorem reverse_pushWhole {fuel whole : Nat} (h : whole < fuel) : (pushWhole fuel whole).reverse = dec whole := by
  induction fuel generalizing whole with
  | zero => omega
  | succ fuel ih =>
    rw [pushWhole, List.reverse_cons]
    split
    · have hlt : whole < 10 := by omega
      rw [dec_of_lt hlt, Nat.mod_eq_of_lt hlt]
      rfl
    · rw [dec_of_le (by omega), ih (by omega)]

theorem reverse_signChars (neg plus : Bool) : (signChars neg plus).reverse = signChars neg plus := by
  cases neg <;> cases plus <;> rfl

/-- The point of a field that shows `count` fraction digits. -/
def pointChars (count : Nat) : Bytes := if 0 < count then [point] else []

/-- The text, most significant digit first, with the fraction digits of the buffer. -/
theorem assemble_eq (neg plus : Bool) (whole : Nat) {frac count : Nat} (h : frac < 10 ^ count) :
    assemble neg plus whole frac count =
      signChars neg plus ++ (dec whole ++ (pointChars count ++ (pushFraction count frac).reverse)) := by
  rw [assemble, List.append_assoc]
  cases count with
  | zero => rfl
  | succ count => rw [reverse_pushFraction h]; rfl

theorem bufferText_eq_assemble (neg plus : Bool) (whole : Nat) {frac count : Nat} (h : frac < 10 ^ count) :
    bufferText neg plus whole frac count = assemble neg plus whole frac count := by
  have hpoint : (pointChars count).reverse = pointChars count := by unfold pointChars; split <;> rfl
  rw [assemble_eq neg plus whole h, bufferText, ← pointChars, List.reverse_append, List.reverse_append,
    List.reverse_append, reverse_signChars, reverse_pushWhole (Nat.lt_succ_self whole), hpoint]

/-- Settles O57: the text of ENCODE is the assembly of digits whose shown fraction has no more digits than its count. -/
theorem digitBufferReversalIsTheText : Obligations.DigitBufferReversalIsTheText := by
  unfold Obligations.DigitBufferReversalIsTheText
  refine ⟨fun neg plus whole frac count h => bufferText_eq_assemble neg plus whole h, fun v p l ktz plus text h => ?_⟩
  obtain ⟨q, hq, rfl⟩ := encodeValue_ok h
  obtain ⟨-, hfrac⟩ := shownFraction_bounds q _ ktz (digitsOf_frac_lt (magnitude v) q)
  exact ⟨q, hq, (bufferText_eq_assemble _ _ _ hfrac).symm⟩

end Sys2Proof.Machine
end

section
/-! PROOFS. Encoder family: what ENCODE gives each value (40_numeric_encoder.md R102 to R107): Overflow, or the text at
the effective precision. -/

namespace Sys2Proof.Machine

/-- Settles O47: the two class tests come first. -/
theorem naNAndInfinityOverflow : Obligations.NaNAndInfinityOverflow := by
  unfold Obligations.NaNAndInfinityOverflow
  intro v p l ktz plus h
  have hoverflow : encodeValue v p l ktz plus = .overflow := by
    rcases h with h | h <;> simp [encodeValue, h]
  rw [hoverflow]
  exact ⟨rfl, rfl, rfl, rfl⟩

/-! ### Finite values -/

/-- The text of a value at effective precision `q` (R101 steps 6 to 8). -/
def textAt (v : F64) (ktz plus : Bool) (q : Nat) : Bytes :=
  assemble (F64.lt v 0) plus (digitsOf (magnitude v) q).1
    (shownFraction q (digitsOf (magnitude v) q).2 ktz).1 (shownFraction q (digitsOf (magnitude v) q).2 ktz).2

/-- A finite value is a text exactly when the fit step leaves a precision. -/
theorem encodeValue_finite {v : F64} (hnan : F64.isNaN v = false) (hinf : F64.isInf v = false) (p l : BitVec 8)
    (ktz plus : Bool) :
    encodeValue v p l ktz plus = (effectivePrecision v p l plus).elim .overflow fun q => .ok (textAt v ktz plus q) := by
  simp only [encodeValue, hnan, hinf, Bool.false_eq_true, if_false]
  rw [← magnitude, ← effectivePrecision]
  cases effectivePrecision v p l plus <;> rfl

/-- A text comes from a finite value. -/
theorem finite_of_encodeValue_ok {v : F64} {p l : BitVec 8} {ktz plus : Bool} {text : Bytes}
    (h : encodeValue v p l ktz plus = .ok text) : F64.isNaN v = false ∧ F64.isInf v = false := by
  have hclass : ¬ (F64.isNaN v = true ∨ F64.isInf v = true) := fun hc => by
    rw [(naNAndInfinityOverflow v p l ktz plus hc).1] at h
    cases h
  simpa using hclass

/-! ### The fit step -/

@[simp] theorem fitPrecision_no_cap (n p : Nat) (signed : Bool) : fitPrecision 0 n p signed = some p := rfl

theorem fitPrecision_of_le {cap n : Nat} (hcap : cap ≠ 0) (h : cap ≤ n) (p : Nat) (signed : Bool) :
    fitPrecision cap n p signed = none := by
  rw [fitPrecision, if_neg hcap, if_pos h]

/-- The request cut to the budget; Nat subtraction is R107's `max(budget, 0)`. -/
theorem fitPrecision_of_lt {cap n : Nat} (h : n < cap) (p : Nat) (signed : Bool) :
    fitPrecision cap n p signed = some (min p (if signed then cap - n - 2 else cap - n - 1)) := by
  rw [fitPrecision, if_neg (by omega), if_neg (by omega)]
  refine congrArg some ?_
  cases signed <;> simp only [Bool.false_eq_true, if_false, if_true] <;> split <;> omega

theorem fitPrecision_eq_none_iff (cap n p : Nat) (signed : Bool) :
    fitPrecision cap n p signed = none ↔ 0 < cap ∧ cap ≤ n := by
  rcases Nat.eq_zero_or_pos cap with rfl | hcap
  · simp
  rcases Nat.lt_or_ge n cap with h | h
  · simp [fitPrecision_of_lt h, h]
  · simp [fitPrecision_of_le hcap.ne' h, hcap, h]

/-- Settles O50: the three clauses compare budgets of one `n`. -/
theorem precisionShrinksToTheBudget : Obligations.PrecisionShrinksToTheBudget := by
  unfold Obligations.PrecisionShrinksToTheBudget
  refine ⟨fun cap n p signed h => fitPrecision_of_lt h p signed, fun cap cap' n p q signed hcap hle hq => ?_,
    fun cap n p signed h hroom => ?_⟩
  · obtain ⟨hn, -⟩ := fitPrecision_bounds hcap hq
    rw [fitPrecision_of_lt hn, Option.some.injEq] at hq
    refine ⟨_, fitPrecision_of_lt (hn.trans_le hle) p signed, ?_⟩
    rw [← hq]
    cases signed <;> simp only [Bool.false_eq_true, if_false, if_true] <;> omega
  · rw [fitPrecision_of_lt h, fitPrecision_no_cap]
    cases signed <;> simp only [Bool.false_eq_true, if_false, if_true] <;> exact congrArg some (by omega)

/-- Settles O49: the fit step refuses a cap that the digits of the integral part reach. -/
theorem overflowExactlyWhenIntegralDigitsReachTheCap : Obligations.OverflowExactlyWhenIntegralDigitsReachTheCap := by
  unfold Obligations.OverflowExactlyWhenIntegralDigitsReachTheCap
  intro v p l ktz plus hnan hinf
  rw [encodeValue_finite hnan hinf, ← magnitude]
  have hnone : (effectivePrecision v p l plus).elim Field.overflow (fun q => .ok (textAt v ktz plus q)) = .overflow ↔
      effectivePrecision v p l plus = none := by
    cases effectivePrecision v p l plus <;> simp
  rw [hnone, effectivePrecision, fitPrecision_eq_none_iff]
  refine and_congr_right fun hcap => ?_
  have hone : 0 < ndigits (F64.integerPart (magnitude v)) := List.length_pos_of_ne_nil (dec_ne_nil _)
  rcases Nat.eq_or_lt_of_le hcap with hl | hl
  · simp [← hl, hone, Nat.succ_le_of_lt]
  · rw [pow_le_iff_lt_ndigits (by omega)]
    omega

/-! ### The clamp -/

theorem effectivePrecision_clamped (v : F64) {p : BitVec 8} (l : BitVec 8) (plus : Bool) (h : 9 ≤ p.toNat) :
    effectivePrecision v p l plus = effectivePrecision v 9 l plus := by
  rw [effectivePrecision, effectivePrecision, show min p.toNat maxPrecision = min (9 : BitVec 8).toNat maxPrecision from
    Nat.min_eq_right h]

/-- Only the point is a point, so what follows the digits of a text begins there. -/
theorem dropWhile_assemble (neg plus : Bool) (whole : Nat) {frac count : Nat} (h : frac < 10 ^ count) :
    (assemble neg plus whole frac count).dropWhile (· != 0x2E) = pointChars count ++ (pushFraction count frac).reverse := by
  have hsign : ∀ b ∈ signChars neg plus, (b != 0x2E) = true := by cases neg <;> cases plus <;> decide
  rw [assemble_eq _ _ _ h, List.dropWhile_append_of_pos hsign,
    List.dropWhile_append_of_pos (no_point_of_mem_dec whole)]
  cases count <;> rfl

/-- Settles O48: with no cap the effective precision is the clamped one, and all its digits are shown. -/
theorem precisionIsClamped : Obligations.PrecisionIsClamped := by
  unfold Obligations.PrecisionIsClamped
  refine ⟨fun v p l ktz plus hp => ?_, fun v p plus hnan hinf => ?_⟩
  · by_cases hfinite : F64.isNaN v = true ∨ F64.isInf v = true
    · rw [(naNAndInfinityOverflow v p l ktz plus hfinite).1, (naNAndInfinityOverflow v 9 l ktz plus hfinite).1]
    · obtain ⟨hnan, hinf⟩ : F64.isNaN v = false ∧ F64.isInf v = false := by simpa using hfinite
      rw [encodeValue_finite hnan hinf, encodeValue_finite hnan hinf, effectivePrecision_clamped v l plus hp]
  · refine ⟨_, encodeValue_finite hnan hinf p 0 true plus, ?_⟩
    rw [textAt, shownFraction, if_pos rfl, dropWhile_assemble _ _ _ (digitsOf_frac_lt _ _), List.length_append,
      List.length_reverse, length_pushFraction, maxPrecision]
    by_cases hp : p = 0
    · subst hp
      rfl
    · have hpos : 0 < min p.toNat 9 := by
        have : p.toNat ≠ 0 := fun h => hp (BitVec.eq_of_toNat_eq h)
        omega
      rw [if_neg hp, pointChars, if_pos hpos, List.length_singleton, Nat.add_comm]

/-! ### The sign -/

theorem head?_assemble (neg plus : Bool) (whole frac count : Nat) :
    (assemble neg plus whole frac count).head? =
      if neg then some minusSign else if plus then some plusSign else (dec whole).head? := by
  rw [assemble, List.append_assoc]
  cases neg
  · cases plus
    · exact List.head?_append_of_ne_nil _ (dec_ne_nil whole)
    · rfl
  · rfl

/-- The two zeros have the same digits at every precision (R104). -/
theorem digitsOf_negative_zero : ∀ q < 10, digitsOf 0x8000000000000000 q = digitsOf 0 q := by
  decide +kernel

theorem fitPrecision_le {cap n p q : Nat} {signed : Bool} (h : fitPrecision cap n p signed = some q) : q ≤ p := by
  rcases Nat.eq_zero_or_pos cap with rfl | hcap
  · exact (Option.some.inj h).ge
  · rw [fitPrecision_of_lt (fitPrecision_bounds hcap h).1] at h
    exact (Option.some.inj h).ge.trans (Nat.min_le_left _ _)

theorem effectivePrecision_le {v : F64} {p l : BitVec 8} {plus : Bool} {q : Nat}
    (h : effectivePrecision v p l plus = some q) : q ≤ 9 :=
  (fitPrecision_le h).trans (Nat.min_le_right _ _)

/-- Settles O51: the sign character is the head of the text where there is one, else a digit is; the two zeros differ in
no test and no digit. -/
theorem signComesFromTheInput : Obligations.SignComesFromTheInput := by
  unfold Obligations.SignComesFromTheInput
  refine ⟨fun v p l ktz plus text h => ?_, fun p l ktz plus => ?_⟩
  · obtain ⟨q, -, rfl⟩ := encodeValue_ok h
    rw [head?_assemble]
    cases F64.lt v 0
    · cases plus
      · exact ⟨by simpa using head?_dec_ne _ rfl, by simpa using head?_dec_ne _ rfl⟩
      · simp [plusSign]
    · simp [minusSign]
  · rw [encodeValue_finite rfl rfl, encodeValue_finite rfl rfl]
    have hsign : F64.lt 0x8000000000000000 0 = F64.lt 0 0 := rfl
    have hwhole : F64.integerPart (magnitude 0x8000000000000000) = F64.integerPart (magnitude 0) := by decide +kernel
    have hprecision : effectivePrecision 0x8000000000000000 p l plus = effectivePrecision 0 p l plus := by
      rw [effectivePrecision, hsign, hwhole, ← effectivePrecision]
    rw [hprecision]
    cases hq : effectivePrecision 0 p l plus with
    | none => rw [Option.elim_none, Option.elim_none]
    | some q =>
      have hdigits : digitsOf (magnitude 0x8000000000000000) q = digitsOf (magnitude 0) q :=
        digitsOf_negative_zero q (Nat.lt_succ_of_le (effectivePrecision_le hq))
      rw [Option.elim_some, Option.elim_some, textAt, textAt, hdigits, hsign]

end Sys2Proof.Machine
end

section
/-! PROOFS. Encoder family: the magnitude of a finite value (40_numeric_encoder.md R101 step 3, R108), the strip of R114 and
the length bound of R121. -/

namespace Sys2Proof.Machine

/-! ### The magnitude -/

theorem F64.exponent_lt_of_finite {v : F64} (hnan : F64.isNaN v = false) (hinf : F64.isInf v = false) :
    F64.exponent v < 2047 := by
  have hbits : F64.exponent v < 2 ^ 11 := (v.extractLsb' 52 11).isLt
  have hne : F64.exponent v ≠ 2047 := fun he => by
    by_cases hf : F64.fraction v = 0 <;> simp [F64.isNaN, F64.isInf, he, hf] at hnan hinf
  omega

/-- R8: on numbers `<` is the order of the integers. -/
theorem F64.lt_eq {v w : F64} (hv : F64.isNaN v = false) (hw : F64.isNaN w = false) :
    F64.lt v w = decide (F64.toInt v < F64.toInt w) := by
  rw [F64.lt, hv, hw]
  rfl

@[simp] theorem scaled_magnitude (v : F64) : F64.scaled (magnitude v) = F64.scaled v := F64.scaled_withSign _ v

@[simp] theorem exponent_magnitude (v : F64) : F64.exponent (magnitude v) = F64.exponent v := F64.exponent_withSign _ v

@[simp] theorem isNaN_magnitude (v : F64) : F64.isNaN (magnitude v) = F64.isNaN v := by
  rw [F64.isNaN, exponent_magnitude, show F64.fraction (magnitude v) = F64.fraction v from F64.fraction_withSign _ v, F64.isNaN]

/-- The integer of a value is the one of its magnitude with the sign R104 reads; for -0.0 both are 0. -/
theorem toInt_eq_signedInt_magnitude {v : F64} (hnan : F64.isNaN v = false) :
    F64.toInt v = signedInt (F64.lt v 0) (F64.scaled (magnitude v)) := by
  rw [scaled_magnitude, F64.lt_eq hnan rfl, ← F64.natAbs_toInt]
  exact (signedInt_natAbs _).symm

theorem F64.eq_negative_zero {v : F64} (hsign : F64.sign v = true) (hzero : F64.scaled v = 0) :
    v = 0x8000000000000000 := by
  have hexp : F64.exponent v = 0 := by
    by_contra he
    have := F64.scaled_normal he
    have := Nat.mul_pos (Nat.two_pow_pos 52) (Nat.two_pow_pos (F64.exponent v - 1))
    omega
  rw [F64.scaled, if_pos hexp, F64.fraction_eq] at hzero
  rw [F64.exponent_eq] at hexp
  rw [F64.sign_eq, decide_eq_true_eq] at hsign
  have hlt := v.isLt
  refine BitVec.eq_of_toNat_eq ?_
  change v.toNat = 2 ^ 63
  omega

/-- A magnitude has sign plus, but for -0.0, which R104 does not count as negative. -/
theorem sign_magnitude {v : F64} (hnan : F64.isNaN v = false) :
    F64.sign (magnitude v) = false ∨ magnitude v = 0x8000000000000000 := by
  cases hs : F64.sign v
  · have hlt : F64.lt v 0 = false := by
      rw [F64.lt_eq hnan rfl, F64.toInt_of_nonneg hs, decide_eq_false_iff_not]
      exact not_lt.mpr (Int.natCast_nonneg _)
    rw [magnitude, hlt]
    exact .inl hs
  · cases hlt : F64.lt v 0
    · rw [magnitude, hlt, if_neg Bool.false_ne_true]
      refine .inr (F64.eq_negative_zero hs ?_)
      rw [F64.lt_eq hnan rfl, F64.toInt_eq_signedInt, hs, decide_eq_false_iff_not] at hlt
      change ¬ (-(F64.scaled v : Int) < 0) at hlt
      omega
    · rw [magnitude, hlt, if_pos rfl, F64.sign_neg, hs]
      exact .inl rfl

theorem toInt_magnitude {v : F64} (hnan : F64.isNaN v = false) :
    F64.toInt (magnitude v) = F64.scaled (magnitude v) := by
  rcases sign_magnitude hnan with h | h
  · exact F64.toInt_of_nonneg h
  · rw [h]; rfl

/-- The integral part on the fast path (R108, R109). -/
theorem integerPart_le_of_fast {mag : F64} (hnan : F64.isNaN mag = false) (hmag : F64.toInt mag = F64.scaled mag)
    (h : F64.lt bigThresh mag = false) : F64.integerPart mag ≤ 2147483647 := by
  have hbig : F64.toInt bigThresh = (2147483647 * F64.unit : Nat) := by decide +kernel
  rw [F64.lt_eq rfl hnan, hbig, hmag, decide_eq_false_iff_not] at h
  exact Nat.div_le_of_le_mul (by rw [Nat.mul_comm]; omega)

theorem integerPart_lt_of_finite {v : F64} (h : F64.exponent v < 2047) : F64.integerPart v < 2 ^ 1024 := by
  obtain ⟨u, hu, hunit⟩ := F64.exists_unit_eq
  rw [F64.integerPart, Nat.div_lt_iff_lt_mul F64.unit_pos, hunit]
  refine (F64.scaled_shape v).2.trans_le ?_
  rw [← Nat.pow_add, ← Nat.pow_add]
  exact Nat.pow_le_pow_right (by decide) (by omega)

/-! ### The strip -/

theorem strip_restores (p frac : Nat) (h : frac < 10 ^ p) :
    frac = (strip p frac).1 * 10 ^ (p - (strip p frac).2) := by
  induction p generalizing frac with
  | zero => exact (Nat.mul_one frac).symm
  | succ p ih =>
    unfold strip
    split
    · have hlt : frac / 10 < 10 ^ p := by rw [Nat.pow_succ] at h; omega
      have hcount := (strip_bounds p (frac / 10) hlt).1
      rw [Nat.succ_sub hcount, Nat.pow_succ, ← Nat.mul_assoc, ← ih _ hlt]
      omega
    · rw [Nat.sub_self, Nat.pow_zero, Nat.mul_one]

theorem strip_last_digit (p frac : Nat) (h : 0 < (strip p frac).2) : (strip p frac).1 % 10 ≠ 0 := by
  induction p generalizing frac with
  | zero => exact absurd h (Nat.lt_irrefl 0)
  | succ p ih =>
    unfold strip at h ⊢
    split at h
    · next hzero => rw [if_pos hzero]; exact ih _ h
    · next hzero => rwa [if_neg hzero]

/-- Settles O55: the strip by induction on its count. -/
theorem stripRemovesExactlyTrailingZeros : Obligations.StripRemovesExactlyTrailingZeros := by
  unfold Obligations.StripRemovesExactlyTrailingZeros
  exact fun p frac h => ⟨(strip_bounds p frac h).1, strip_restores p frac h, strip_last_digit p frac, rfl, rfl⟩

/-- Zeros alone are no fraction. -/
theorem strip_zero (p : Nat) : strip p 0 = (0, 0) := by
  induction p with
  | zero => rfl
  | succ p ih => exact ih

/-! ### The carry into the integral part (R111) -/

/-- Rounding in units of `1 / c` stops at the next integer. -/
theorem roundHalfEven_mul_le {n s w c : Nat} (hc : 0 < c) (h : n < (w + 1) * 2 ^ s) :
    roundHalfEven (n * c) s ≤ (w + 1) * c := by
  refine (roundHalfEven_bounds (n * c) s).2.trans ((Nat.div_lt_iff_lt_mul (Nat.two_pow_pos s)).mpr ?_)
  rw [Nat.mul_right_comm]
  exact Nat.mul_lt_mul_of_pos_right h hc

theorem fixedDigits_frac_of_carry {mag : F64} {p : Nat} (h : (fixedDigits mag p).1 = F64.integerPart mag + 1) :
    (fixedDigits mag p).2 = 0 := by
  have hle := roundHalfEven_mul_le (s := 1074) (c := 10 ^ p) (Nat.pow_pos (by decide)) (F64.integerPart_bounds mag).2
  have hge := Nat.div_mul_le_self (roundHalfEven (F64.scaled mag * 10 ^ p) 1074) (10 ^ p)
  unfold fixedDigits at h ⊢
  dsimp only at h ⊢
  rw [h] at hge
  rw [Nat.le_antisymm hle hge, Nat.mul_mod_left]

theorem digitsOf_large {mag : F64} (p : Nat) (h : F64.lt bigThresh mag = true) : digitsOf mag p = fixedDigits mag p :=
  if_pos h

theorem digitsOf_fast_zero {mag : F64} (h : F64.lt bigThresh mag = false) : digitsOf mag 0 = (fastWhole mag, 0) := by
  rw [digitsOf, h, if_neg Bool.false_ne_true, if_pos rfl]

theorem digitsOf_fast {mag : F64} {p : Nat} (h : F64.lt bigThresh mag = false) (hp : p ≠ 0) :
    digitsOf mag p = fastDigits mag p := by
  rw [digitsOf, h, if_neg Bool.false_ne_true, if_neg hp]

theorem fastDigits_of_carry {mag : F64} {p : Nat} (h : 10 ^ p ≤ roundedFraction mag p) :
    fastDigits mag p = (F64.integerPart mag + 1, 0) :=
  if_pos h

theorem fastDigits_of_lt {mag : F64} {p : Nat} (h : roundedFraction mag p < 10 ^ p) :
    fastDigits mag p = (F64.integerPart mag, roundedFraction mag p) :=
  if_neg (Nat.not_le_of_lt h)

/-- A carry leaves no fraction, on either path. -/
theorem digitsOf_frac_of_carry {mag : F64} {p : Nat} (h : (digitsOf mag p).1 = F64.integerPart mag + 1) :
    (digitsOf mag p).2 = 0 := by
  cases hbig : F64.lt bigThresh mag
  · rcases Nat.eq_zero_or_pos p with rfl | hp
    · rw [digitsOf_fast_zero hbig]
    · rw [digitsOf_fast hbig hp.ne'] at h ⊢
      rcases Nat.lt_or_ge (roundedFraction mag p) (10 ^ p) with hlt | hcarry
      · rw [fastDigits_of_lt hlt] at h
        exact absurd h (Nat.lt_succ_self _).ne
      · rw [fastDigits_of_carry hcarry]
  · rw [digitsOf_large p hbig] at h ⊢
    exact fixedDigits_frac_of_carry h

/-- An integral numeral that the rounding made longer is a power of ten, after a carry. -/
theorem digitsOf_of_ndigits_lt {mag : F64} {p : Nat} (h : ndigits (F64.integerPart mag) < ndigits (digitsOf mag p).1) :
    (digitsOf mag p).1 = 10 ^ ndigits (F64.integerPart mag) ∧ (digitsOf mag p).2 = 0 := by
  have hpos : 0 < ndigits (F64.integerPart mag) := List.length_pos_of_ne_nil (dec_ne_nil _)
  have hge := (pow_le_iff_lt_ndigits hpos).mpr h
  have hlt := lt_pow_ndigits (F64.integerPart mag)
  have hle := digitsOf_whole_le mag p
  exact ⟨by omega, digitsOf_frac_of_carry (by omega)⟩

/-! ### The length of a text -/

/-- The number of fraction digits that a text shows. -/
def shownCount (v : F64) (ktz : Bool) (q : Nat) : Nat := (shownFraction q (digitsOf (magnitude v) q).2 ktz).2

theorem shownCount_le (v : F64) (ktz : Bool) (q : Nat) : shownCount v ktz q ≤ q :=
  (shownFraction_bounds q _ ktz (digitsOf_frac_lt _ q)).1

theorem shownCount_of_no_fraction {v : F64} {q : Nat} (h : (digitsOf (magnitude v) q).2 = 0) :
    shownCount v false q = 0 := by
  rw [shownCount, h, shownFraction, if_neg (by decide), strip_zero]

theorem length_textAt (v : F64) (ktz plus : Bool) (q : Nat) :
    (textAt v ktz plus q).length = (F64.lt v 0 || plus).toNat + ndigits (digitsOf (magnitude v) q).1 +
      (if 0 < shownCount v ktz q then shownCount v ktz q + 1 else 0) :=
  length_assemble _ _ _ (shownFraction_bounds q _ ktz (digitsOf_frac_lt _ q)).2

/-- R121 with a cap: a longer text is one byte longer, after a carry, and shows all of a fraction that fills the budget or
has no budget at all. -/
theorem length_textAt_capped {v : F64} {p l : BitVec 8} {ktz plus : Bool} {q : Nat} (hl : 0 < l.toNat)
    (hq : effectivePrecision v p l plus = some q) :
    (textAt v ktz plus q).length ≤ l.toNat ∨
      ((textAt v ktz plus q).length = l.toNat + 1 ∧
        (digitsOf (magnitude v) q).1 = 10 ^ ndigits (F64.integerPart (magnitude v)) ∧
        ((q = 0 ∧ (F64.lt v 0 || plus) = true ∧ ndigits (F64.integerPart (magnitude v)) + 1 = l.toNat) ∨
          (0 < q ∧ ktz = true ∧
            l.toNat = ndigits (F64.integerPart (magnitude v)) + q + (if F64.lt v 0 || plus then 2 else 1)))) := by
  obtain ⟨hn, hbudget⟩ := fitPrecision_bounds hl hq
  have hcount := shownCount_le v ktz q
  have hsign := Bool.toNat_le (F64.lt v 0 || plus)
  rw [length_textAt]
  rcases Nat.lt_or_ge (ndigits (F64.integerPart (magnitude v))) (ndigits (digitsOf (magnitude v) q).1) with hcarry | hkept
  · obtain ⟨hwhole, hfrac⟩ := digitsOf_of_ndigits_lt hcarry
    have hone : ndigits (digitsOf (magnitude v) q).1 ≤ ndigits (F64.integerPart (magnitude v)) + 1 :=
      (ndigits_mono (digitsOf_whole_le _ q)).trans (ndigits_succ_le _)
    rcases Nat.eq_zero_or_pos (shownCount v ktz q) with hnone | hshown
    · rw [if_neg (by omega)]
      cases hs : F64.lt v 0 || plus <;> simp only [hs, Bool.toNat_false, Bool.toNat_true, if_true] at hbudget ⊢
      · left; omega
      · by_cases hfull : ndigits (F64.integerPart (magnitude v)) + 1 = l.toNat
        · exact .inr ⟨by omega, hwhole, .inl ⟨by omega, trivial, hfull⟩⟩
        · left; omega
    · have hktz : ktz = true := by
        by_contra hstripped
        rw [Bool.not_eq_true] at hstripped
        subst hstripped
        exact hshown.ne' (shownCount_of_no_fraction hfrac)
      rw [if_pos hshown]
      by_cases hfull : l.toNat = ndigits (F64.integerPart (magnitude v)) + q + 1 + (F64.lt v 0 || plus).toNat ∧
          shownCount v ktz q = q
      · refine .inr ⟨by omega, hwhole, .inr ⟨by omega, hktz, ?_⟩⟩
        rw [hfull.1]
        cases F64.lt v 0 || plus <;> rfl
      · left; omega
  · left
    split <;> omega

/-- Settles O58: with a cap by the lemma above; without one, an integral part of at most 2^1024, or of at most 2^31 on the
fast path, and at most 9 fraction digits. -/
theorem fieldLengthBound : Obligations.FieldLengthBound := by
  unfold Obligations.FieldLengthBound
  rintro v P l ktz plus text mag h rfl
  obtain ⟨hnan, hinf⟩ := finite_of_encodeValue_ok h
  obtain ⟨q, hq, rfl⟩ := encodeValue_ok h
  rw [← textAt, ← magnitude]
  refine ⟨fun hl => ?_, fun _ => ?_⟩
  · rcases length_textAt_capped (ktz := ktz) hl hq with hshort | ⟨hlong, hwhole, hshape⟩
    · exact .inl hshort
    · exact .inr ⟨hlong, q, hq, hwhole, hshape⟩
  · have hcount := (shownCount_le v ktz q).trans (effectivePrecision_le hq)
    have hsign := Bool.toNat_le (F64.lt v 0 || plus)
    have hlength := length_textAt v ktz plus q
    have hwhole := digitsOf_whole_le (magnitude v) q
    have hshown : (if 0 < shownCount v ktz q then shownCount v ktz q + 1 else 0) ≤ 10 := by split <;> omega
    constructor
    · have hint := integerPart_lt_of_finite ((exponent_magnitude v).trans_lt (F64.exponent_lt_of_finite hnan hinf))
      have hpow : 2 ^ 1024 < 10 ^ 309 := by decide +kernel
      have := ndigits_le_of_lt_pow (by decide) ((hwhole.trans hint).trans_lt hpow)
      omega
    · intro hfast
      have hint := integerPart_le_of_fast ((isNaN_magnitude v).trans hnan) (toInt_magnitude hnan) hfast
      have := ndigits_le_of_lt_pow (m := (digitsOf (magnitude v) q).1) (k := 10) (by decide) (by omega)
      omega

end Sys2Proof.Machine
end

section
/-! PROOFS. Encoder family: how far the digits of step 6 are from the magnitude (40_numeric_encoder.md R109 to R113). -/

namespace Sys2Proof.Machine

/-- How far the digits `wf`, as a multiple of 10^-p, are from the magnitude, in units of 10^-p * 2^-1074. -/
def digitsError (wf : Nat × Nat) (p : Nat) (mag : F64) : Nat :=
  (((wf.1 * 10 ^ p + wf.2) * F64.unit : Int) - F64.scaled mag * 10 ^ p).natAbs

/-! ### FIXED (R113) -/

theorem two_mul_roundHalfEven_error_le (n s : Nat) :
    2 * ((roundHalfEven n s : Int) * (2 ^ s : Nat) - n).natAbs ≤ 2 ^ s := by
  obtain ⟨hdown, hup⟩ := roundHalfEven_error n s
  have hlt := Nat.mod_lt n (Nat.two_pow_pos s)
  omega

theorem roundHalfEven_even_of_tie {n s : Nat} (h : 2 * ((roundHalfEven n s : Int) * (2 ^ s : Nat) - n).natAbs = 2 ^ s) :
    roundHalfEven n s % 2 = 0 := by
  obtain ⟨hdown, hup⟩ := roundHalfEven_error n s
  have htie : 2 * (n % 2 ^ s) = 2 ^ s := by omega
  unfold roundHalfEven
  dsimp only
  split <;> omega

theorem digitsError_fixedDigits (mag : F64) (p : Nat) :
    digitsError (fixedDigits mag p) p mag =
      ((roundHalfEven (F64.scaled mag * 10 ^ p) 1074 : Int) * F64.unit - (F64.scaled mag * 10 ^ p : Nat)).natAbs := by
  have hdigits : ((fixedDigits mag p).1 * 10 ^ p + (fixedDigits mag p).2 : Nat) = roundHalfEven (F64.scaled mag * 10 ^ p) 1074 :=
    Nat.div_add_mod' _ _
  rw [digitsError, ← hdigits]
  push_cast
  rfl

theorem two_mul_digitsError_fixedDigits_le (mag : F64) (p : Nat) : 2 * digitsError (fixedDigits mag p) p mag ≤ F64.unit := by
  rw [digitsError_fixedDigits]
  exact two_mul_roundHalfEven_error_le _ _

/-! ### The rounding of a retained integer (R110, R112) -/

theorem roundRetained_tie (k : Nat) {r : F64} (hr : F64.exponent r < 2047) (hs : F64.sign r = false)
    (h : 2 * F64.scaled r = F64.unit) : roundRetained k r = if k % 2 = 1 then k + 1 else k := by
  have hhalf : 2 * F64.toInt halfF64 = F64.unit := by decide +kernel
  have htie : F64.eq r halfF64 = true := by
    rw [F64.eq, (F64.finite_class hr).1, F64.toInt_of_nonneg hs]
    exact decide_eq_true (by omega)
  rw [roundRetained, if_pos htie]

theorem roundRetained_off_tie (k : Nat) {r : F64} (hr : F64.exponent r < 2047) (hs : F64.sign r = false)
    (h : 2 * F64.scaled r ≠ F64.unit) :
    roundRetained k r = if F64.scaled rndThresh < F64.scaled r then k + 1 else k := by
  have hhalf : 2 * F64.toInt halfF64 = F64.unit := by decide +kernel
  have htie : F64.eq r halfF64 = false := by
    rw [F64.eq, (F64.finite_class hr).1, F64.toInt_of_nonneg hs]
    exact decide_eq_false (by omega)
  have hlt : F64.lt rndThresh r = decide (F64.scaled rndThresh < F64.scaled r) := by
    rw [F64.lt_eq rfl (F64.finite_class hr).1, F64.toInt_of_nonneg hs, F64.toInt_of_nonneg rfl]
    exact decide_eq_decide.mpr Nat.cast_lt
  rw [roundRetained, htie, hlt]
  simp

/-- Settles O52: one rule at the tie, one off it. -/
theorem tieRoundsToEvenElseThreshold : Obligations.TieRoundsToEvenElseThreshold := by
  unfold Obligations.TieRoundsToEvenElseThreshold
  refine fun k r hr hs => ⟨fun htie => ?_, fun hoff => roundRetained_off_tie k hr hs hoff⟩
  rw [roundRetained_tie k hr hs htie]
  split <;> omega

/-- A remainder is below 1, so it is finite. -/
theorem exponent_lt_of_scaled_lt {r : F64} (h : F64.scaled r < F64.unit) : F64.exponent r < 2047 := by
  have hzero : F64.integerPart r = 0 := Nat.div_eq_of_lt h
  have := F64.exponent_le_of_integerPart_lt (v := r) (by rw [hzero]; decide)
  omega

/-- The rounding is off by at most 0.501; RND_THRESH is below 0.499, by less than 2^-53. -/
theorem roundRetained_error (k : Nat) {r : F64} (hs : F64.sign r = false) (h : F64.scaled r < F64.unit) :
    1000 * ((roundRetained k r : Int) * F64.unit - (k * F64.unit + F64.scaled r : Nat)).natAbs ≤
      501 * F64.unit + 1000 * 2 ^ 1021 := by
  have hr := exponent_lt_of_scaled_lt h
  have hlow : 499 * F64.unit ≤ 1000 * F64.scaled rndThresh + 1000 * 2 ^ 1021 := by decide +kernel
  have hhigh : 1000 * F64.scaled rndThresh ≤ 501 * F64.unit := by decide +kernel
  generalize 2 ^ 1021 = e at *
  have hkeep : ((k : Nat) : Int) * F64.unit - (k * F64.unit + F64.scaled r : Nat) = -(F64.scaled r : Int) := by
    push_cast; ring
  have hup : ((k + 1 : Nat) : Int) * F64.unit - (k * F64.unit + F64.scaled r : Nat) = F64.unit - F64.scaled r := by
    push_cast; ring
  by_cases htie : 2 * F64.scaled r = F64.unit
  · rw [roundRetained_tie k hr hs htie]
    split
    · rw [hup]; omega
    · rw [hkeep]; omega
  · rw [roundRetained_off_tie k hr hs htie]
    split
    · rw [hup]; omega
    · rw [hkeep]; omega

theorem roundRetained_of_zero (k : Nat) {r : F64} (hs : F64.sign r = false) (h : F64.scaled r = 0) :
    roundRetained k r = k := by
  have hpos := F64.unit_pos
  rw [roundRetained_off_tie k (exponent_lt_of_scaled_lt (by omega)) hs (by omega), if_neg (by omega)]

/-- The rounding of a magnitude to an integer, as both precisions of the fast path do it. -/
def roundToInteger (t : F64) : Nat := roundRetained (F64.integerPart t) (F64.sub t (F64.ofNat (F64.integerPart t)))

theorem fastWhole_eq (mag : F64) : fastWhole mag = roundToInteger mag := rfl

theorem roundedFraction_eq (mag : F64) (p : Nat) : roundedFraction mag p = roundToInteger (scaledFraction mag p) := rfl

theorem roundToInteger_error {t : F64} (hs : F64.sign t = false) (h : F64.integerPart t < 2 ^ 53) :
    1000 * ((roundToInteger t : Int) * F64.unit - F64.scaled t).natAbs ≤ 501 * F64.unit + 1000 * 2 ^ 1021 := by
  obtain ⟨hval, hsign⟩ := F64.sub_integerPart hs h
  have herr := roundRetained_error (F64.integerPart t) hsign (hval.trans_lt (Nat.mod_lt _ F64.unit_pos))
  rwa [hval, F64.integerPart, Nat.div_add_mod'] at herr

theorem roundToInteger_le {t : F64} {c : Nat} (hs : F64.sign t = false) (hc : c < 2 ^ 53) (h : F64.scaled t ≤ c * F64.unit) :
    roundToInteger t ≤ c := by
  have hint : F64.integerPart t ≤ c := Nat.div_le_of_le_mul (by rwa [Nat.mul_comm])
  rcases Nat.eq_or_lt_of_le hint with heq | hlt
  · obtain ⟨hval, hsign⟩ := F64.sub_integerPart hs (hint.trans_lt hc)
    have hle := (F64.integerPart_bounds t).1
    rw [heq] at hle
    rw [Nat.le_antisymm h hle, Nat.mul_mod_left] at hval
    rw [roundToInteger, roundRetained_of_zero _ hsign hval, heq]
  · exact (roundRetained_le _ _).trans hlt

/-! ### The scaled fraction (R109) -/

theorem F64.roundMag_error {n k : Nat} (h : n ≠ 0) (hfin : F64.exponent (F64.roundMag n k) < 2047) :
    2 * ((F64.scaled (F64.roundMag n k) : Int) * 2 ^ k - n * F64.unit).natAbs ≤ 2 ^ (k + F64.lastPlace n k) := by
  have herr := two_mul_roundHalfEven_error_le (n * F64.unit) (k + F64.lastPlace n k)
  have hval : (F64.scaled (F64.roundMag n k) : Int) * 2 ^ k =
      (F64.significand n k : Int) * (2 ^ (k + F64.lastPlace n k) : Nat) := by
    rw [F64.scaled_roundMag h hfin]; push_cast; ring
  rw [hval, ← Nat.cast_mul n]
  exact herr

theorem F64.exponent_roundMag_lt_of_lastPlace {n k : Nat} (hplace : F64.lastPlace n k ≤ 2044) :
    F64.exponent (F64.roundMag n k) < 2047 := by
  by_cases hn : n = 0
  · rw [hn, F64.roundMag_zero]; decide
  · have := (F64.significand_bounds k hn).2
    rw [F64.roundMag_eq k hn, (F64.fields_ofNat (Nat.min_le_right _ _)).1]
    omega

/-- The last place of a product of a fraction and `c`, which has `j + 1` bits. -/
theorem F64.lastPlace_product {f c j : Nat} (hf : f < F64.unit) (hc : c < 2 ^ (j + 1)) (hne : f * (c * F64.unit) ≠ 0) :
    F64.lastPlace (f * (c * F64.unit)) 2148 ≤ j + 1022 := by
  obtain ⟨u, hu, hunit⟩ := F64.exists_unit_eq
  have hlt : f * (c * F64.unit) < 2 ^ (j + 1 + 2 * u) := by
    have hprod := Nat.mul_lt_mul'' hf (Nat.mul_lt_mul_of_pos_right hc F64.unit_pos)
    refine hprod.trans_eq ?_
    rw [hunit, ← Nat.pow_add, ← Nat.pow_add]
    exact congrArg _ (by omega)
  have hlog := (Nat.log2_lt hne).mpr hlt
  unfold F64.lastPlace
  omega

/-- The rounded product of a fraction `f` and an integer `c` of `j + 1` bits, in units of 2^-1074: it is off by at most half
a unit of the last place of `c`, and no larger than `c`, which is a binary64 itself. -/
theorem F64.roundMag_product {f c j : Nat} (hf : f < F64.unit) (hc : c < 2 ^ (j + 1)) (hj : j ≤ 51) :
    ((F64.scaled (F64.roundMag (f * (c * F64.unit)) 2148) : Int) - (f * c : Nat)).natAbs ≤ 2 ^ j * 2 ^ 1021 ∧
      F64.scaled (F64.roundMag (f * (c * F64.unit)) 2148) ≤ c * F64.unit := by
  obtain ⟨k, hk⟩ : ∃ k, k = 2148 := ⟨_, rfl⟩
  have hscale : 2 ^ k = F64.unit * F64.unit := hk ▸ F64.two_pow_mul_scale
  by_cases hne : f * (c * F64.unit) = 0
  · have hfc : f * c = 0 := by
      rw [← Nat.mul_assoc] at hne
      exact (Nat.mul_eq_zero.mp hne).resolve_right F64.unit_pos.ne'
    rw [hne, F64.roundMag_zero, F64.scaled_zero, hfc]
    exact ⟨Nat.zero_le _, Nat.zero_le _⟩
  have hplace := F64.lastPlace_product hf hc hne
  have hfin := F64.exponent_roundMag_lt_of_lastPlace (hplace.trans (by omega))
  rw [← hk] at hplace hfin ⊢
  have hcancel : ∀ m : Nat, ((m : Int) * 2 ^ k - (f * (c * F64.unit) : Nat) * F64.unit).natAbs =
      ((m : Int) - (f * c : Nat)).natAbs * 2 ^ k := by
    intro m
    have hcast : (2 : Int) ^ k = F64.unit * F64.unit := by exact_mod_cast hscale
    rw [hscale, ← Int.natAbs_natCast (F64.unit * F64.unit), ← Int.natAbs_mul, hcast]
    push_cast
    exact congrArg _ (by ring)
  have hpos := Nat.two_pow_pos k
  constructor
  · have herr := F64.roundMag_error hne hfin
    rw [hcancel, ← Nat.mul_assoc, Nat.pow_add, Nat.mul_comm (2 ^ k)] at herr
    have hhalf : 2 ^ F64.lastPlace (f * (c * F64.unit)) k ≤ 2 * (2 ^ j * 2 ^ 1021) := by
      rw [← Nat.pow_add, ← Nat.pow_succ']
      exact Nat.pow_le_pow_right (by decide) (by omega)
    have := (Nat.le_of_mul_le_mul_right herr hpos).trans hhalf
    omega
  · obtain ⟨-, hcval⟩ := F64.ofNat_exact (hc.trans_le (Nat.pow_le_pow_right (by decide) (by omega : j + 1 ≤ 53)))
    have hnear := F64.roundMag_nearest _ k (F64.ofNat c) hfin
    rw [hcancel, hcancel, hcval] at hnear
    have hle := Nat.le_of_mul_le_mul_right hnear hpos
    have hproduct : f * c ≤ c * F64.unit := by
      rw [Nat.mul_comm f]
      exact Nat.mul_le_mul_left c hf.le
    omega

theorem scaledFraction_eq {mag : F64} {p : Nat} (hs : F64.sign mag = false) (h : F64.integerPart mag < 2 ^ 53)
    (hp : 10 ^ p < 2 ^ 53) :
    scaledFraction mag p = F64.roundMag (F64.scaled mag % F64.unit * (10 ^ p * F64.unit)) 2148 := by
  obtain ⟨hval, hsign⟩ := F64.sub_integerPart hs h
  obtain ⟨hcfin, hcval⟩ := F64.ofNat_exact hp
  have hfin := exponent_lt_of_scaled_lt (hval.trans_lt (Nat.mod_lt _ F64.unit_pos))
  rw [scaledFraction, F64.mul_of_finite hfin hcfin, hsign, F64.sign_ofNat, hval, hcval]
  exact if_neg Bool.false_ne_true

/-- 10^p is no power of two, so half a unit of its last place is below 10^p * 2^-53 with room for RND_THRESH's distance from
0.499. -/
theorem log2_pow_ten : ∀ p < 10, 0 < p → Nat.log2 (10 ^ p) ≤ 51 ∧ 2 ^ Nat.log2 (10 ^ p) + 1 ≤ 10 ^ p := by
  decide +kernel

/-- The one rounded multiplication is off by less than 10^p * 2^-53 and stays in the range of a fraction. -/
theorem scaledFraction_bounds {mag : F64} {p : Nat} (hs : F64.sign mag = false) (h : F64.integerPart mag < 2 ^ 53)
    (hpos : 0 < p) (hp : p ≤ 9) :
    F64.sign (scaledFraction mag p) = false ∧
    ((F64.scaled (scaledFraction mag p) : Int) - (F64.scaled mag % F64.unit * 10 ^ p : Nat)).natAbs + 2 ^ 1021 ≤
      10 ^ p * 2 ^ 1021 ∧
    F64.scaled (scaledFraction mag p) ≤ 10 ^ p * F64.unit := by
  have hlt : 10 ^ p < 2 ^ 53 := (Nat.pow_le_pow_right (by decide) hp).trans_lt (by decide)
  obtain ⟨hlog, hroom⟩ := log2_pow_ten p (Nat.lt_succ_of_le hp) hpos
  obtain ⟨herr, hle⟩ := F64.roundMag_product (Nat.mod_lt (F64.scaled mag) F64.unit_pos) Nat.lt_log2_self hlog
  rw [scaledFraction_eq hs h hlt]
  refine ⟨F64.sign_roundMag _ _, ?_, hle⟩
  calc _ ≤ 2 ^ Nat.log2 (10 ^ p) * 2 ^ 1021 + 2 ^ 1021 := Nat.add_le_add_right herr _
    _ = (2 ^ Nat.log2 (10 ^ p) + 1) * 2 ^ 1021 := (Nat.succ_mul _ _).symm
    _ ≤ 10 ^ p * 2 ^ 1021 := Nat.mul_le_mul_right _ hroom

/-! ### The digits of the fast path -/

/-- The magnitude as its integral part and its fraction, beside digits with that integral part. -/
theorem digitsError_integerPart (mag : F64) (p frac : Nat) :
    digitsError (F64.integerPart mag, frac) p mag =
      ((frac : Int) * F64.unit - (F64.scaled mag % F64.unit * 10 ^ p : Nat)).natAbs := by
  have hparts : F64.integerPart mag * F64.unit + F64.scaled mag % F64.unit = F64.scaled mag := Nat.div_add_mod' _ _
  rw [digitsError]
  conv_lhs => rw [← hparts]
  push_cast
  exact congrArg _ (by ring)

theorem digitsError_whole (mag : F64) (whole : Nat) :
    digitsError (whole, 0) 0 mag = ((whole : Int) * F64.unit - F64.scaled mag).natAbs := by
  rw [digitsError, pow_zero, mul_one, mul_one, Nat.cast_zero, add_zero]

/-- The carry changes the digits and not the number they stand for. -/
theorem digitsError_fastDigits {mag : F64} {p : Nat} (h : roundedFraction mag p ≤ 10 ^ p) :
    digitsError (fastDigits mag p) p mag = digitsError (F64.integerPart mag, roundedFraction mag p) p mag := by
  rcases Nat.lt_or_ge (roundedFraction mag p) (10 ^ p) with hlt | hcarry
  · rw [fastDigits_of_lt hlt]
  · rw [fastDigits_of_carry hcarry, Nat.le_antisymm h hcarry, digitsError, digitsError]
    push_cast
    exact congrArg _ (by ring)

theorem digitsError_fast {mag : F64} {p : Nat} (hs : F64.sign mag = false) (hnan : F64.isNaN mag = false)
    (hfast : F64.lt bigThresh mag = false) (hp : p ≤ 9) :
    1000 * digitsError (digitsOf mag p) p mag ≤ 501 * F64.unit + 1000 * 10 ^ p * 2 ^ 1021 := by
  have hint : F64.integerPart mag < 2 ^ 53 :=
    (integerPart_le_of_fast hnan (F64.toInt_of_nonneg hs) hfast).trans_lt (by decide)
  rcases Nat.eq_zero_or_pos p with rfl | hpos
  · rw [digitsOf_fast_zero hfast, fastWhole_eq, digitsError_whole, Nat.pow_zero, Nat.mul_one]
    exact roundToInteger_error hs hint
  · have hlt : 10 ^ p < 2 ^ 53 := (Nat.pow_le_pow_right (by decide) hp).trans_lt (by decide)
    obtain ⟨hsign, hmul, hle⟩ := scaledFraction_bounds hs hint hpos hp
    have htint : F64.integerPart (scaledFraction mag p) < 2 ^ 53 :=
      (Nat.div_le_of_le_mul (by rwa [Nat.mul_comm])).trans_lt hlt
    have hround := roundToInteger_error hsign htint
    have hrounded : roundedFraction mag p ≤ 10 ^ p := roundToInteger_le hsign hlt hle
    rw [digitsOf_fast hfast hpos.ne', digitsError_fastDigits hrounded, digitsError_integerPart, roundedFraction_eq]
    have hassoc : 1000 * 10 ^ p * 2 ^ 1021 = 1000 * (10 ^ p * 2 ^ 1021) := Nat.mul_assoc _ _ _
    generalize 10 ^ p * 2 ^ 1021 = e at *
    generalize 2 ^ 1021 = e' at *
    omega

end Sys2Proof.Machine
end

section
/-! PROOFS. Encoder family: a text reads back as its digits, so within their error of the value (40_numeric_encoder.md
R122). -/

namespace Sys2Proof.Machine

/-! ### Reading an assembled field -/

/-- The integral numeral and what follows it are told apart by the point. -/
theorem takeWhile_digits (whole count frac : Nat) :
    (dec whole ++ (pointChars count ++ (pushFraction count frac).reverse)).takeWhile (· != 0x2E) = dec whole ∧
    (dec whole ++ (pointChars count ++ (pushFraction count frac).reverse)).dropWhile (· != 0x2E) =
      pointChars count ++ (pushFraction count frac).reverse := by
  rw [List.takeWhile_append_of_pos (no_point_of_mem_dec whole), List.dropWhile_append_of_pos (no_point_of_mem_dec whole)]
  cases count <;> exact ⟨List.append_nil _, rfl⟩

/-- The reader finds the sign character, and the digits behind it, of a field that starts with a digit. -/
theorem readField_sign (neg plus : Bool) {body : Bytes} (hminus : body.head? ≠ some 0x2D) (hplus : body.head? ≠ some 0x2B) :
    ((signChars neg plus ++ body).head? == some 0x2D) = neg ∧
      (if neg || (signChars neg plus ++ body).head? == some 0x2B then (signChars neg plus ++ body).drop 1
        else signChars neg plus ++ body) = body := by
  cases neg
  · cases plus
    · rw [signChars, if_neg Bool.false_ne_true, if_neg Bool.false_ne_true, List.nil_append]
      refine ⟨beq_eq_false_iff_ne.mpr hminus, if_neg ?_⟩
      rw [Bool.false_or, beq_iff_eq]
      exact hplus
    · exact ⟨rfl, rfl⟩
  · exact ⟨rfl, rfl⟩

/-- A number with the sign `negative`. -/
def signedRat (negative : Bool) (x : ℚ) : ℚ := if negative then -x else x

theorem readField_assemble (neg plus : Bool) (whole : Nat) {frac count : Nat} (h : frac < 10 ^ count) :
    readField (assemble neg plus whole frac count) =
      some (signedRat neg ((whole * 10 ^ count + frac : Nat) / 10 ^ count)) := by
  have hhead : ∀ b : Byte, isDigit b = false →
      (dec whole ++ (pointChars count ++ (pushFraction count frac).reverse)).head? ≠ some b := fun b hb => by
    rw [List.head?_append_of_ne_nil _ (dec_ne_nil whole)]
    exact head?_dec_ne whole hb
  obtain ⟨hneg, hbody⟩ := readField_sign neg plus (hhead 0x2D rfl) (hhead 0x2B rfl)
  obtain ⟨htake, hdrop⟩ := takeWhile_digits whole count frac
  have hfrac : (pointChars count ++ (pushFraction count frac).reverse).drop 1 = (pushFraction count frac).reverse := by
    cases count <;> rfl
  have hlen : (pushFraction count frac).reverse.length = count := by rw [List.length_reverse, length_pushFraction]
  have hshape : dec whole ≠ [] ∧
      (pointChars count ++ (pushFraction count frac).reverse = [] ∨ (pushFraction count frac).reverse ≠ []) ∧
      (dec whole ++ (pushFraction count frac).reverse).all isDigit = true := by
    refine ⟨dec_ne_nil whole, ?_, List.all_eq_true.mpr (List.forall_mem_append.mpr
      ⟨isDigit_of_mem_dec whole, isDigit_of_mem_pushFraction count frac⟩)⟩
    cases count with
    | zero => exact .inl rfl
    | succ count => exact .inr (List.ne_nil_of_length_pos (by omega))
  rw [assemble_eq neg plus whole h, readField]
  simp only [hneg, hbody, htake, hdrop, hfrac]
  rw [if_pos hshape, numeral_append_pushFraction _ h, numeral_dec, hlen]
  rfl

/-! ### The value of the text of ENCODE -/

theorem shownFraction_restores {p frac : Nat} (ktz : Bool) (h : frac < 10 ^ p) :
    frac = (shownFraction p frac ktz).1 * 10 ^ (p - (shownFraction p frac ktz).2) := by
  cases ktz
  · exact strip_restores p frac h
  · change frac = frac * 10 ^ (p - p)
    rw [Nat.sub_self, Nat.pow_zero, Nat.mul_one]

/-- The strip changes the digits shown and not the number they stand for (R114). -/
theorem readField_textAt (v : F64) (ktz plus : Bool) (q : Nat) :
    readField (textAt v ktz plus q) =
      some (signedRat (F64.lt v 0) (((digitsOf (magnitude v) q).1 * 10 ^ q + (digitsOf (magnitude v) q).2 : Nat) / 10 ^ q)) := by
  have hlt := digitsOf_frac_lt (magnitude v) q
  obtain ⟨hcount, hfrac⟩ := shownFraction_bounds q _ ktz hlt
  have hrestore := shownFraction_restores ktz hlt
  rw [textAt, readField_assemble _ _ _ hfrac]
  refine congrArg (fun x => some (signedRat _ x)) ?_
  generalize (digitsOf (magnitude v) q).1 = whole at *
  generalize (digitsOf (magnitude v) q).2 = frac at *
  generalize shownFraction q frac ktz = shown at *
  obtain ⟨rest, hrest⟩ := Nat.exists_eq_add_of_le hcount
  rw [hrest, Nat.add_sub_cancel_left] at hrestore
  rw [hrest, hrestore, div_eq_div_iff (by positivity) (by positivity)]
  push_cast
  ring

theorem F64.unit_pos_rat : (0 : ℚ) < F64.unit := Nat.cast_pos.mpr F64.unit_pos

theorem abs_signedRat_sub (negative : Bool) (x y : ℚ) : |signedRat negative x - signedRat negative y| = |x - y| := by
  cases negative
  · rfl
  · change |-x - -y| = |x - y|
    rw [neg_sub_neg, abs_sub_comm]

theorem real_eq_signedRat {v : F64} (hnan : F64.isNaN v = false) :
    F64.real v = signedRat (F64.lt v 0) (F64.scaled (magnitude v) / F64.unit) := by
  rw [F64.real, toInt_eq_signedInt_magnitude hnan]
  cases F64.lt v 0
  · rfl
  · change ((-(F64.scaled (magnitude v) : Int) : Int) : ℚ) / F64.unit = -(F64.scaled (magnitude v) / F64.unit)
    rw [Int.cast_neg, neg_div, Int.cast_natCast]

/-- The number read back is as far from the value as its digits are from the magnitude. -/
theorem abs_signedRat_sub_real {v : F64} (hnan : F64.isNaN v = false) (wf : Nat × Nat) (q : Nat) :
    |signedRat (F64.lt v 0) ((wf.1 * 10 ^ q + wf.2 : Nat) / 10 ^ q) - F64.real v| =
      digitsError wf q (magnitude v) / (10 ^ q * F64.unit) := by
  have hunit := F64.unit_pos_rat
  have hdiff : ((wf.1 * 10 ^ q + wf.2 : Nat) / 10 ^ q - F64.scaled (magnitude v) / F64.unit : ℚ) =
      (((wf.1 * 10 ^ q + wf.2) * F64.unit - F64.scaled (magnitude v) * 10 ^ q : Int) : ℚ) / (10 ^ q * F64.unit) := by
    rw [div_sub_div _ _ (by positivity) hunit.ne']
    push_cast
    ring
  rw [real_eq_signedRat hnan, abs_signedRat_sub, hdiff, abs_div, abs_of_pos (mul_pos (by positivity) hunit), digitsError,
    Nat.cast_natAbs, Int.cast_abs]

/-- A text reads back within the error of its digits. -/
theorem encodeValue_reads_back {v : F64} {p l : BitVec 8} {ktz plus : Bool} {text : Bytes}
    (h : encodeValue v p l ktz plus = .ok text) :
    ∃ (q : Nat) (x : ℚ), q ≤ 9 ∧ effectivePrecision v p l plus = some q ∧ readField text = some x ∧
      |x - F64.real v| = digitsError (digitsOf (magnitude v) q) q (magnitude v) / (10 ^ q * F64.unit) := by
  obtain ⟨hnan, -⟩ := finite_of_encodeValue_ok h
  obtain ⟨q, hq, rfl⟩ := encodeValue_ok h
  exact ⟨q, _, effectivePrecision_le hq, hq, readField_textAt v ktz plus q, abs_signedRat_sub_real hnan _ q⟩

/-- Settles O53: FIXED is a rounding to nearest, ties to even, and its digits are what the text of a large value shows. -/
theorem largePathIsCorrectlyRounded : Obligations.LargePathIsCorrectlyRounded := by
  unfold Obligations.LargePathIsCorrectlyRounded
  refine ⟨fun mag p => ⟨Nat.mod_lt _ (Nat.pow_pos (by decide)), two_mul_digitsError_fixedDigits_le mag p, fun htie => ?_⟩,
    fun v p l ktz plus text h hbig => ?_⟩
  · rw [← digitsError, digitsError_fixedDigits] at htie
    rw [fixedDigits, Nat.div_add_mod']
    exact roundHalfEven_even_of_tie htie
  · obtain ⟨q, x, -, hq, hx, herr⟩ := encodeValue_reads_back h
    refine ⟨q, x, hq, hx, ?_⟩
    have hunit := F64.unit_pos_rat
    have hbound : (2 * digitsError (fixedDigits (magnitude v) q) q (magnitude v) : ℚ) ≤ F64.unit := by
      exact_mod_cast two_mul_digitsError_fixedDigits_le (magnitude v) q
    rw [herr, digitsOf_large q hbig, div_le_div_iff₀ (by positivity) (by positivity), mul_left_comm, mul_comm _ (10 ^ q),
      mul_left_comm, one_mul]
    exact mul_le_mul_of_nonneg_left hbound (by positivity)

/-- The digits of a value on the fast path: those of -0.0 are those of 0.0. -/
theorem digitsError_fast_magnitude {v : F64} (hnan : F64.isNaN v = false) (hfast : F64.lt bigThresh (magnitude v) = false)
    {q : Nat} (hq : q ≤ 9) :
    1000 * digitsError (digitsOf (magnitude v) q) q (magnitude v) ≤ 501 * F64.unit + 1000 * 10 ^ q * 2 ^ 1021 := by
  rcases sign_magnitude hnan with hs | hzero
  · exact digitsError_fast hs ((isNaN_magnitude v).trans hnan) hfast hq
  · have hpos := digitsError_fast (mag := 0) (p := q) rfl rfl (by decide +kernel) hq
    rw [hzero, digitsOf_negative_zero q (Nat.lt_succ_of_le hq)]
    exact hpos

theorem F64.exists_unit_eq_mul : ∃ a, a = 2 ^ 1021 ∧ 0 < a ∧ F64.unit = a * 2 ^ 53 := by
  obtain ⟨u, hu, hunit⟩ := F64.exists_unit_eq
  obtain ⟨j, rfl⟩ : ∃ j, u = j + 53 := ⟨1021, hu⟩
  have hj : j = 1021 := by omega
  exact ⟨2 ^ j, by rw [hj], Nat.two_pow_pos j, hunit.trans (Nat.pow_add 2 j 53)⟩

/-- The bound of the fast path's digits, divided by their unit (R122). -/
theorem fast_error_div {e a q : Nat} (ha : 0 < a) (h : 1000 * e ≤ 501 * (a * 2 ^ 53) + 1000 * 10 ^ q * a) :
    (e / (10 ^ q * (a * 2 ^ 53 : Nat)) : ℚ) ≤ 501 / 1000 / 10 ^ q + 1 / 2 ^ 53 := by
  have hcast : (1000 * e : ℚ) ≤ 501 * (a * 2 ^ 53) + 1000 * 10 ^ q * a := by exact_mod_cast h
  have hpos : (0 : ℚ) < a := Nat.cast_pos.mpr ha
  calc (e / (10 ^ q * (a * 2 ^ 53 : Nat)) : ℚ) = 1000 * e / (1000 * (10 ^ q * (a * 2 ^ 53))) := by
        rw [mul_div_mul_left _ _ (by norm_num)]; push_cast; rfl
    _ ≤ (501 * (a * 2 ^ 53) + 1000 * 10 ^ q * a) / (1000 * (10 ^ q * (a * 2 ^ 53))) :=
        div_le_div_of_nonneg_right hcast (by positivity)
    _ = 501 / 1000 / 10 ^ q + 1 / 2 ^ 53 := by field_simp

/-- Settles O54: the error of the rounding and of the multiplication, as a number. -/
theorem fastPathRoundTrip : Obligations.FastPathRoundTrip := by
  unfold Obligations.FastPathRoundTrip
  refine ⟨fun v p l ktz plus text h hfast => ?_, fun mag p hp hs hnan hfast => ⟨digitsOf_frac_lt mag p, ?_⟩⟩
  · obtain ⟨q, x, hq9, hq, hx, herr⟩ := encodeValue_reads_back h
    obtain ⟨a, ha, hpos, hunit⟩ := F64.exists_unit_eq_mul
    have hbound := digitsError_fast_magnitude (finite_of_encodeValue_ok h).1 hfast hq9
    rw [← ha, hunit] at hbound
    refine ⟨q, x, hq, hx, ?_⟩
    rw [herr, hunit]
    exact fast_error_div hpos hbound
  · rw [show 1074 - 53 = 1021 from rfl]
    exact digitsError_fast hs hnan hfast hp

end Sys2Proof.Machine
end

section
/-! PROOFS. Formatter family, O60 and O39: how many lines PACK gives, and the refusal when there are too few slots
(41_response_formatter.md R140, R143, R145, R146). -/

namespace Sys2Proof.Machine

/-! ### The lines of PACK -/

/-- PACK gives the used lines, filled up with empty ones, exactly when the slots hold them (R145, R146). -/
theorem pack_eq_some_iff {slots cap : Nat} {strict : Bool} {vals : List F64} {p fcap : BitVec 8} {ls : List Bytes} :
    pack slots strict vals p fcap cap = some ls ↔
      (usedLines strict vals p fcap cap).length ≤ slots ∧
      ls = usedLines strict vals p fcap cap ++
        List.replicate (slots - (usedLines strict vals p fcap cap).length) [] := by
  unfold pack
  dsimp only
  split
  · next hfit => simp [hfit, eq_comm]
  · next hover => simp [hover]

theorem pack_isSome_iff {slots cap : Nat} {strict : Bool} {vals : List F64} {p fcap : BitVec 8} :
    (pack slots strict vals p fcap cap).isSome = true ↔ (usedLines strict vals p fcap cap).length ≤ slots := by
  simp [Option.isSome_iff_exists, pack_eq_some_iff]

theorem pack_length {slots cap : Nat} {strict : Bool} {vals : List F64} {p fcap : BitVec 8} {ls : List Bytes}
    (h : pack slots strict vals p fcap cap = some ls) : ls.length = slots := by
  obtain ⟨hfit, rfl⟩ := pack_eq_some_iff.mp h
  rw [List.length_append, List.length_replicate, Nat.add_sub_cancel' hfit]

/-- Settles O60: the used lines stay under the cap by `pack_below`, and no values use one line, an empty one. -/
theorem packedLinesStayUnderTheCap : Obligations.PackedLinesStayUnderTheCap := by
  unfold Obligations.PackedLinesStayUnderTheCap
  refine ⟨fun slots strict vals p fcap cap ls h => ⟨pack_length h, fun hfields hcap hstrict => ?_⟩,
    fun slots strict p fcap cap hslots => pack_eq_some_iff.mpr ⟨hslots, ?_⟩⟩
  · subst hstrict
    exact pack_below hcap hfields h
  · obtain ⟨n, rfl⟩ := Nat.exists_eq_add_one.mpr hslots
    rfl

/-! ### Too few slots -/

/-- Only a field closes a line. -/
theorem length_fillLines_le (strict : Bool) (cap : Nat) (fields : List Bytes) (cur : Bytes) :
    (fillLines strict cap fields cur).length ≤ fields.length + 1 := by
  induction fields generalizing cur with
  | nil => exact Nat.le_refl 1
  | cons f fs ih =>
    unfold fillLines
    split
    · exact (ih _).trans (Nat.le_succ _)
    · exact Nat.succ_le_succ (ih _)

theorem pack_isSome_of_length_lt {slots : Nat} {vals : List F64} (h : vals.length < slots) (strict : Bool)
    (p fcap : BitVec 8) (cap : Nat) : (pack slots strict vals p fcap cap).isSome = true := by
  have hused := length_fillLines_le strict cap (vals.map (packField p fcap)) []
  rw [List.length_map] at hused
  exact pack_isSome_iff.mpr (hused.trans h)

/-- A refusal inside the served device's cycle is the answer of the loop of R161. -/
theorem dispatch_refused {s : State} {a : Byte} {d : Nat} {dev : Device} {crc : Bool} {cycle : Nat → State → Out}
    {r : Refusal} (h : Served s a d dev) (hcycle : cycle d (s.activate d crc) = .refused r) :
    dispatch a crc cycle s = .refused r := by
  rw [dispatch_served h (fun t ht => by rw [hcycle] at ht; cases ht), hcycle]

/-- An acquisition that is not cancelled and produces no lines is refused (R146 (ii), log entry 8). -/
theorem MClass.dispatch_exhausted (m : MClass) {s : State} {a : Byte} {d : Nat} {dev : Device} {vals : Values} (crc : Bool)
    (h : Served s a d dev) (hvals : s.nextEnv.vals = some vals) (hcancel : cancelTest m.mode s.nextEnv dev = false)
    (hlines : m.produce s.cfg vals = none) :
    dispatch a crc (m.measure 0) s = .refused (.lineSlotsExhausted d) := by
  refine dispatch_refused h ?_
  rw [m.measure_run 0 crc h.here rfl, hvals]
  dsimp only
  rw [hcancel, if_neg Bool.false_ne_true, hlines]

theorem cancelTest_release_eq_false {e : Env} {dev : Device}
    (h : ∀ w ∈ e.newcmds, dev.matches (Record.address w) = false) : cancelTest .release e dev = false :=
  List.any_eq_false.mpr fun w hw => Bool.eq_false_iff.mp (h w hw)

/-- Settles O39: the cycle of each verb reaches PACK and is refused there; n values use at most n + 1 lines. -/
theorem packingBeyondTheSlotsIsRefused : Obligations.PackingBeyondTheSlotsIsRefused := by
  unfold Obligations.PackingBeyondTheSlotsIsRefused
  refine ⟨fun s a q p2 d dev vals h hvals => ⟨fun hlb hdeact hpack => ?_, fun hquiet hpack => ?_⟩,
    fun slots strict vals p fcap cap hmore => pack_isSome_of_length_lt hmore strict p fcap cap⟩
  · have hcancel : cancelTest .hold s.nextEnv dev = false := by rw [cancelTest, hlb, hdeact]; rfl
    exact measurementClass.dispatch_exhausted (crcq q) h hvals hcancel hpack
  · have hcancel := cancelTest_release_eq_false hquiet
    exact ⟨concurrentClass.dispatch_exhausted (crcq q) h hvals hcancel hpack,
      highVolumeAsciiClass.dispatch_exhausted (crcq q) h hvals hcancel hpack⟩

end Sys2Proof.Machine
end

section
/-! PROOFS. Formatter family, O59: PACK is first fit, told by the fields that stand in each line (41_response_formatter.md
R141, R143, R145). -/

namespace Sys2Proof.Machine

/-- The lines of `fillLines` as lists of the fields that stand in them, from the current line on. -/
def fillGroups (strict : Bool) (cap : Nat) : List Bytes → List Bytes → List (List Bytes)
  | [], cur => [cur]
  | f :: fs, cur =>
    if fits strict cur.flatten.length f.length cap then fillGroups strict cap fs (cur ++ [f])
    else cur :: fillGroups strict cap fs [f]

/-- Every field of a line but the first fits behind the fields before it (R141). -/
def EachFits (strict : Bool) (cap : Nat) (g : List Bytes) : Prop :=
  ∀ pre f post, g = pre ++ f :: post → pre ≠ [] → fits strict pre.flatten.length f.length cap = true

/-- The next line begins with a field that does not fit this one (R143). -/
def ClosedBefore (strict : Bool) (cap : Nat) (g g' : List Bytes) : Prop :=
  ∃ f fs, g' = f :: fs ∧ fits strict g.flatten.length f.length cap = false

section
variable {strict : Bool} {cap : Nat}

theorem map_flatten_fillGroups (fields cur : List Bytes) :
    (fillGroups strict cap fields cur).map List.flatten = fillLines strict cap fields cur.flatten := by
  induction fields generalizing cur with
  | nil => rfl
  | cons f fs ih =>
    unfold fillGroups fillLines
    split
    · rw [ih, List.flatten_concat]
    · rw [List.map_cons, ih, List.flatten_singleton]

theorem flatten_fillGroups (fields cur : List Bytes) :
    (fillGroups strict cap fields cur).flatten = cur ++ fields := by
  induction fields generalizing cur with
  | nil => simp [fillGroups]
  | cons f fs ih =>
    unfold fillGroups
    split <;> simp [ih]

theorem eachFits_of_length_le_one {g : List Bytes} (h : g.length ≤ 1) : EachFits strict cap g := by
  rintro pre f post rfl hpre
  have := List.length_pos_of_ne_nil hpre
  rw [List.length_append, List.length_cons] at h
  omega

theorem EachFits.concat {g : List Bytes} {f : Bytes} (hg : EachFits strict cap g)
    (hf : fits strict g.flatten.length f.length cap = true) : EachFits strict cap (g ++ [f]) := by
  intro pre f' post h hpre
  rcases List.eq_nil_or_concat' post with rfl | ⟨post, last, rfl⟩
  · obtain ⟨rfl, hlast⟩ := List.append_inj' h rfl
    rwa [← List.head_eq_of_cons_eq hlast]
  · rw [← List.cons_append, ← List.append_assoc] at h
    exact hg pre f' post (List.append_inj' h rfl).1 hpre

theorem eachFits_of_mem_fillGroups {fields cur : List Bytes} (hcur : EachFits strict cap cur) :
    ∀ g ∈ fillGroups strict cap fields cur, EachFits strict cap g := by
  induction fields generalizing cur with
  | nil => simpa [fillGroups] using hcur
  | cons f fs ih =>
    unfold fillGroups
    split
    · next hfit => exact ih (hcur.concat hfit)
    · exact List.forall_mem_cons.mpr ⟨hcur, ih (eachFits_of_length_le_one (Nat.le_refl 1))⟩

/-- The current line keeps its fields, and the next one it takes fits. -/
theorem fillGroups_eq_cons (fields cur : List Bytes) :
    ∃ more rest, fillGroups strict cap fields cur = (cur ++ more) :: rest ∧
      ∀ f fs, more = f :: fs → fits strict cur.flatten.length f.length cap = true := by
  induction fields generalizing cur with
  | nil => exact ⟨[], [], by rw [List.append_nil]; rfl, nofun⟩
  | cons f fs ih =>
    unfold fillGroups
    split
    · next hfit =>
      obtain ⟨more, rest, heq, -⟩ := ih (cur ++ [f])
      exact ⟨f :: more, rest, by rw [heq, List.append_assoc, List.singleton_append],
        fun _ _ h => by rwa [← List.head_eq_of_cons_eq h]⟩
    · exact ⟨[], _, by rw [List.append_nil], nofun⟩

theorem isChain_fillGroups (fields cur : List Bytes) :
    (fillGroups strict cap fields cur).IsChain (ClosedBefore strict cap) := by
  induction fields generalizing cur with
  | nil => exact .singleton cur
  | cons f fs ih =>
    unfold fillGroups
    split
    · exact ih _
    · next hfull =>
      have hrest := ih [f]
      obtain ⟨more, rest, heq, -⟩ := fillGroups_eq_cons (strict := strict) (cap := cap) fs [f]
      rw [heq] at hrest ⊢
      exact .cons_cons ⟨f, more, rfl, Bool.eq_false_iff.mpr hfull⟩ hrest

end

/-- Settles O59: the fields of the used lines, by induction on the fields still to be placed. -/
theorem packIsFirstFit : Obligations.PackIsFirstFit := by
  unfold Obligations.PackIsFirstFit
  intro slots strict vals p fcap cap ls h
  obtain ⟨hslots, hls⟩ := pack_eq_some_iff.mp h
  have hused : (fillGroups strict cap (vals.map (packField p fcap)) []).map List.flatten =
      usedLines strict vals p fcap cap := map_flatten_fillGroups _ []
  rw [← hused, List.length_map] at hslots hls
  refine ⟨fillGroups strict cap (vals.map (packField p fcap)) [], flatten_fillGroups _ [], hslots, hls,
    eachFits_of_mem_fillGroups (eachFits_of_length_le_one (Nat.zero_le 1)),
    fun f fs hhead => ?_, fun k g g' hg hg' => ?_⟩
  · obtain ⟨more, rest, heq, hfit⟩ := fillGroups_eq_cons (strict := strict) (cap := cap) (vals.map (packField p fcap)) []
    rw [heq] at hhead
    exact hfit f fs (Option.some.inj hhead)
  · obtain ⟨hk, rfl⟩ := List.getElem?_eq_some_iff.mp hg'
    obtain ⟨_, rfl⟩ := List.getElem?_eq_some_iff.mp hg
    exact List.isChain_iff_getElem.mp (isChain_fillGroups _ _) k hk

end Sys2Proof.Machine
end

section
/-! PROOFS. Commands family, O18 and O20: the dispatch of a command while something is claimed, and how a completed command
ends (42_commands_basic.md R161, R162, R172, 60_exceptions.md R236, 70_reset_and_hazards.md R263). -/

namespace Sys2Proof.Machine

theorem exec_of_not_unknown {i : Instr} (h : i.mclass ≠ .unknown) (s : State) :
    exec i s = dispatch i.address (crcOf i) (cycleOf i) s := by
  rcases exec_eq_dispatch i s with ⟨pr, se, p1, p2, hi⟩ | hi
  · rw [hi] at h
    exact absurd rfl h
  · exact hi

/-! ### A claimed engine -/

/-- The loop ends with the fault of the first device that answers. -/
theorem visit_fault {a : Byte} {act : Nat → State → Out} {s : State} {d : Nat} {ds : List Nat} {r : Fault}
    (hsorted : ds.Pairwise (· < ·)) (hmem : d ∈ ds) (hans : s.answers a d = true)
    (hfirst : ∀ k < d, s.answers a k = false) (hact : act d s = .fault r) : visit a act ds s = .fault r := by
  induction ds with
  | nil => cases hmem
  | cons k ds ih =>
    obtain ⟨hlt, hsorted⟩ := List.pairwise_cons.mp hsorted
    rw [visit_cons]
    rcases List.mem_cons.mp hmem with rfl | hmem
    · rw [if_pos hans, hact]
    · rw [hfirst k (hlt d hmem), if_neg Bool.false_ne_true]
      exact ih hsorted hmem

/-- Settles O18: the devices before `d` are passed over, and `d` meets the check of R161. -/
theorem claimedMatchRaisesContractViolation : Obligations.ClaimedMatchRaisesContractViolation := by
  unfold Obligations.ClaimedMatchRaisesContractViolation
  intro i s d dev hi hrunning hclaimed hd htakes hfirst
  have hlt : d < s.devices.length := (List.getElem?_eq_some_iff.mp hd).1
  have hans : s.answers i.address d = true := by rw [s.answers_eq _ d dev hd, hrunning, htakes]; rfl
  rw [exec_of_not_unknown hi]
  refine visit_fault List.pairwise_lt_range (List.mem_range.mpr hlt) hans (fun k hk => ?_) (begin_claimed hclaimed)
  cases hother : s.devices[k]? with
  | none => exact s.answers_none _ k hother
  | some other => rw [s.answers_eq _ k other hother, hfirst k other hk hother, Bool.and_false]

/-! ### The end of a completed command -/

/-- From `s` to `t` nothing was emitted, or reception was re-armed last (R263). -/
def Rearmed (s t : State) : Prop :=
  t.trace = s.trace ∨ ∃ effs, t.trace = s.trace ++ effs ++ [.forceListen]

theorem Rearmed.extend {s u t : State} {effs : List Effect} (h : Rearmed s u)
    (ht : t.trace = u.trace ++ (effs ++ [.forceListen])) : Rearmed s t := by
  rcases h with hu | ⟨before, hu⟩
  · exact .inr ⟨effs, by rw [ht, hu, List.append_assoc]⟩
  · exact .inr ⟨before ++ [.forceListen] ++ effs, by rw [ht, hu]; simp⟩

/-- A rejection reply re-arms reception (R172). -/
theorem Rearmed.reject {s u : State} (h : Rearmed s u) (d : Nat) : Rearmed s (u.reject d) :=
  h.extend (effs := [.send _]) (by rw [State.reject_eq]; rfl)

/-- A cycle that is not held at its Poll re-arms reception (R162, R255). -/
theorem CycleResult.rearmed {i : Instr} {s u t : State} {d : Nat} {dev dev' : Device} {effs : List Effect}
    (h : CycleResult i u t d dev dev' effs) (hu : Rearmed s u) (ht : t.blocked = false) : Rearmed s t := by
  rcases h.ending with ⟨-, -, -, -, e, rfl⟩ | ⟨-, hheld, -⟩
  · exact hu.extend h.trace
  · rw [hheld] at ht
    cases ht

/-- Settles O20: each reply and each cycle of the command re-arms reception, unless it leaves the engine blocked. -/
theorem completedCycleRearmsReception : Obligations.CompletedCycleRearmsReception := by
  unfold Obligations.CompletedCycleRearmsReception
  intro i s t h
  refine exec_keeps i (fun u => u.blocked = false → Rearmed s u) ?_ ?_ (fun _ => .inl rfl) h
  · intro d u hu _ _ hb
    exact (hu hb).reject d
  · intro d u t dev dev' effs hu _ hb _ _ hres ht
    exact hres.rearmed (hu hb) ht

end Sys2Proof.Machine
end

section
/-! PROOFS. Commands family, O21 to O27: the commands answered in Ready, each the dispatch of a cycle whose result
Laws/Cycles gives (42_commands_basic.md R163 to R172). -/

namespace Sys2Proof.Machine

/-! ### AQRY, ACK, IDENT -/

theorem dispatch_addressCycle {s : State} (a : Byte) (hs : s.Open) :
    dispatch a (crcq .plain) addressCycle s = .next (s.answered a (·.cycled false) (plainReply · [])) :=
  dispatch_answered hs (fun _ => rfl) fun _ _ _ _ hd _ hreg => addressCycle_run false hd hreg

/-- Settles O21: both verbs are the dispatch of the bare-address cycle. -/
theorem addressReplyOfQueryAndAcknowledge : Obligations.AddressReplyOfQueryAndAcknowledge := by
  unfold Obligations.AddressReplyOfQueryAndAcknowledge
  intro s a p1 p2 hs
  exact ⟨dispatch_addressCycle a hs, dispatch_addressCycle a hs, rfl, rfl⟩

/-- Settles O22: the cycle of IDENT, under the configuration the whole loop keeps. -/
theorem identityReply : Obligations.IdentityReply := by
  unfold Obligations.IdentityReply
  intro s a p1 p2 hs
  refine ⟨dispatch_answered hs (fun _ => rfl) fun d u dev hcfg hd _ hreg => ?_, rfl⟩
  rw [← hcfg]
  exact identCycle_run false hd hreg

/-! ### SetAddress and ACHG -/

/-- Settles O23: the two branches of SetAddress. -/
theorem setAddressMutatesAlphanumericOnly : Obligations.SetAddressMutatesAlphanumericOnly := by
  unfold Obligations.SetAddressMutatesAlphanumericOnly
  intro s d dev b hd
  rw [State.setAddress_run b hd]
  exact ⟨fun hb => by rw [hb, if_neg Bool.false_ne_true], fun hb => if_pos hb⟩

/-- ACHG, accepted or refused. -/
theorem exec_achg_answered {s : State} (a : Byte) (p1 p2 : BitVec 16) (hs : s.Open) :
    exec (.achg a p1 p2) s = .next { s.answered a (·.readdressed p1) (readdressEffects · p1) with
      storage := s.devices.foldl (fun m dev => if dev.takes a then readdressStorage p1 dev m else m) s.storage } := by
  refine dispatch_answered_storing hs (fun dev => ?_) fun _ _ _ _ hd _ hreg => addressChangeCycle_run p1 hd hreg
  unfold Device.readdressed
  cases acceptedAddress p1 <;> rfl

/-- Settles O24: the accepted byte decides registers, effects and storage alike. -/
theorem addressChangeReply : Obligations.AddressChangeReply := by
  unfold Obligations.AddressChangeReply
  intro s a p1 p2 hs
  rw [exec_achg_answered a p1 p2 hs]
  refine ⟨fun b hb => ?_, fun hrefused => ?_, rfl⟩
  · simp only [Device.readdressed, readdressEffects, readdressStorage, hb]
  · simp only [Device.readdressed, readdressEffects, readdressStorage, hrefused, ite_self, List.foldl_fixed]
    rfl

/-! ### DATA and BDATA -/

theorem slotOperand_of_lt {n : Nat} {p : BitVec 16} (h : p.toNat < n) (lines : List Bytes) :
    slotOperand n lines p = lines.getD p.toNat [] := if_pos h

theorem slotOperand_of_le {n : Nat} {p : BitVec 16} (h : n ≤ p.toNat) (lines : List Bytes) :
    slotOperand n lines p = [] := if_neg (Nat.not_lt.mpr h)

theorem exec_data_answered {s : State} (a : Byte) (q : Qualifier) (p1 p2 : BitVec 16) (hs : s.Open) :
    exec (.data a q p1 p2) s = .next (s.answered a (·.cycled (crcq q))
      (fun dev => dataReply dev (slotOperand s.cfg.lineSlots dev.lines p1) q)) := by
  refine dispatch_answered hs (fun _ => rfl) fun d u dev hcfg hd _ hreg => ?_
  rw [← hcfg]
  exact dataCycle_run q p1 hd hreg

/-- Settles O25: the slot `param1` names, on either side of LINE_SLOTS. -/
theorem dataRequestReply : Obligations.DataRequestReply := by
  unfold Obligations.DataRequestReply
  intro s a q p1 p2 hs
  rw [exec_data_answered a q p1 p2 hs]
  refine ⟨fun hin => ?_, fun hout => ?_, by cases q <;> rfl⟩
  · simp only [slotOperand_of_lt hin]
  · simp only [slotOperand_of_le hout]

theorem lowByte_eq (w : BitVec 16) : w.extractLsb' 0 8 = BitVec.ofNat 8 (w.toNat % 256) := by
  apply BitVec.eq_of_toNat_eq; simp

theorem highByte_eq (w : BitVec 16) : w.extractLsb' 8 8 = BitVec.ofNat 8 (w.toNat / 256) := by
  apply BitVec.eq_of_toNat_eq; simp [Nat.shiftRight_eq_div_pow]

theorem byteFrame_plain (dev : Device) : byteFrame (dev.activated false) = [dev.address, 0, 0, 0] := rfl

/-- The checksum of the frame, low byte first (R81, R54). -/
theorem byteFrame_crc (dev : Device) :
    byteFrame (dev.activated true) = [dev.address, 0, 0, 0,
      BitVec.ofNat 8 ((Config.crcRaw [dev.address, 0, 0, 0]).toNat % 256),
      BitVec.ofNat 8 ((Config.crcRaw [dev.address, 0, 0, 0]).toNat / 256)] := by
  rw [← lowByte_eq, ← highByte_eq]
  rfl

theorem exec_bdata_answered {s : State} (a : Byte) (q : Qualifier) (p1 p2 : BitVec 16) (hs : s.Open) :
    exec (.bdata a q p1 p2) s = .next (s.answered a (·.cycled (crcq q))
      (fun dev => [.send (byteFrame (dev.activated (crcq q))), .forceListen])) :=
  dispatch_answered hs (fun _ => rfl) fun _ _ _ _ hd _ hreg => byteDataCycle_run (crcq q) hd hreg

/-- Settles O26: the frame of each qualifier. -/
theorem byteDataReply : Obligations.ByteDataReply := by
  unfold Obligations.ByteDataReply
  intro s a p1 p2 hs
  rw [exec_bdata_answered a .plain p1 p2 hs, exec_bdata_answered a .crc p1 p2 hs]
  refine ⟨?_, ?_, rfl, rfl⟩
  · simp only [crcq, byteFrame_plain]
  · simp only [crcq, byteFrame_crc]

/-! ### UNKNOWN -/

/-- Settles O27: the loop of R161 without its check. -/
theorem unknownIsRejected : Obligations.UnknownIsRejected := by
  unfold Obligations.UnknownIsRejected
  intro s a pr se p1 p2 hs
  exact execUnknown_answered hs

end Sys2Proof.Machine
end

section
/-! PROOFS. Measurement family, O17: a device in LowPower (43_commands_measurement.md R217, 42_commands_basic.md R173). -/

namespace Sys2Proof.Machine

/-- From `s` to `t` no device fell asleep or woke up, and those asleep kept their registers. -/
def SleepersKept (s t : State) : Prop :=
  ∀ (k : Nat) (w : Device), w.state = .lowPower → (t.devices[k]? = some w ↔ s.devices[k]? = some w)

/-- No cycle ends or is held in LowPower (R162, R255). -/
theorem CycleResult.not_lowPower {i : Instr} {u t : State} {d : Nat} {dev dev' : Device} {effs : List Effect}
    (h : CycleResult i u t d dev dev' effs) : dev'.state ≠ .lowPower := by
  rcases h.ending with ⟨-, hready, -⟩ | ⟨-, -, -, -, hlow, -⟩
  · rw [hready]
    nofun
  · exact hlow

/-- The device in a cycle is in LowPower neither before it nor after it, and a cycle touches no other device. -/
theorem CycleResult.sleepersKept {i : Instr} {u t : State} {d : Nat} {dev dev' : Device} {effs : List Effect}
    (h : CycleResult i u t d dev dev' effs) (hd : u.devices[d]? = some dev) (hready : dev.state = .ready) :
    SleepersKept u t := by
  intro k w hw
  by_cases hk : d = k
  · subst hk
    have hbefore : dev ≠ w := by
      rintro rfl
      rw [hready] at hw
      cases hw
    have hafter : dev' ≠ w := by
      rintro rfl
      exact h.not_lowPower hw
    simp [h.device_self hd, hd, hbefore, hafter]
  · rw [h.devices, List.getElem?_set_ne hk]

theorem exec_sleepersKept {i : Instr} {s t : State} (h : exec i s = .next t) : SleepersKept s t :=
  exec_keeps i (SleepersKept s) (fun _ _ hu _ _ => hu)
    (fun _ _ _ _ _ _ hu _ _ hd htakes hres k w hw =>
      (hres.sleepersKept hd (Device.takes_ready htakes) k w hw).trans (hu k w hw))
    (fun _ _ _ => Iff.rfl) h

theorem Device.takes_of_lowPower {dev : Device} (h : dev.state = .lowPower) (a : Byte) : dev.takes a = false := by
  simp [Device.takes, h]

/-- Settles O17: the sleepers before and after are the same, and a command that finds only sleepers is taken by none. -/
theorem lowPowerDeviceIsInert : Obligations.LowPowerDeviceIsInert := by
  unfold Obligations.LowPowerDeviceIsInert
  refine ⟨fun i s t d dev h hdev hlow => (exec_sleepersKept h d dev hlow).mpr hdev,
    fun i s t d dev h hdev hlow => (exec_sleepersKept h d dev hlow).mp hdev, fun i s hlow => ?_⟩
  exact untakenCommandIsIgnored i s fun dev hdev => Device.takes_of_lowPower (hlow dev hdev) _

end Sys2Proof.Machine
end

section
/-! PROOFS. Measurement family, O28 to O31: the commands of the measurement class that are answered without an
acquisition, each the dispatch of a cycle whose result Laws/Cycles gives (43_commands_measurement.md R191, R194, R213 to
R215). -/

namespace Sys2Proof.Machine

/-! ### The probes -/

theorem supportedIndex_iff (p : BitVec 16) : supportedIndex p = true ↔ p = 0 := beq_iff_eq

theorem MClass.dispatch_probe (m : MClass) {s : State} (a : Byte) (p : BitVec 16) (hs : s.Open) :
    dispatch a (crcq .plain) (m.probe p) s =
      .next (s.answered a (·.cycled false) (plainReply · (if p = 0 then m.tokOk else m.tokBad))) := by
  have htoken : m.token p = if p = 0 then m.tokOk else m.tokBad := by simp only [MClass.token, supportedIndex_iff]
  rw [← htoken]
  exact dispatch_answered hs (fun _ => rfl) fun _ _ _ _ hd _ hreg => m.probe_run p false hd hreg

/-- Settles O28: each verb is the dispatch of its class's probe. -/
theorem probeAnswersOnlyTheToken : Obligations.ProbeAnswersOnlyTheToken := by
  unfold Obligations.ProbeAnswersOnlyTheToken
  intro s a p1 p2 hs
  refine ⟨measurementClass.dispatch_probe a p1 hs, concurrentClass.dispatch_probe a p1 hs, ?_, rfl, rfl, rfl, rfl⟩
  rintro i (rfl | rfl)
  · exact highVolumeAsciiClass.dispatch_probe a p1 hs
  · exact highVolumeByteClass.dispatch_probe a p1 hs

/-- Settles O29: the cycles of the two probes without a `param1`. -/
theorem continuousAndVerifyProbes : Obligations.ContinuousAndVerifyProbes := by
  unfold Obligations.ContinuousAndVerifyProbes
  intro s a p1 p2 hs
  refine ⟨dispatch_answered hs (fun _ => rfl) fun d u dev hcfg hd _ hreg => ?_,
    dispatch_answered hs (fun _ => rfl) fun _ _ _ _ hd _ hreg => verifyProbeCycle_run false hd hreg, rfl, rfl⟩
  rw [← hcfg]
  exact continuousProbeCycle_run false hd hreg

/-! ### The commands that clear the lines -/

/-- Settles O30: the cycle of VERIFY, under the configuration the whole loop keeps. -/
theorem verifyClearsTheLines : Obligations.VerifyClearsTheLines := by
  unfold Obligations.VerifyClearsTheLines
  intro s a q p1 p2 hs
  refine ⟨dispatch_answered hs (fun _ => rfl) fun d u dev hcfg hd _ hreg => ?_, by cases q <;> rfl⟩
  rw [← hcfg]
  exact verifyCycle_run (crcq q) hd hreg

theorem MClass.dispatch_unsupported (m : MClass) {s : State} (a : Byte) (crc : Bool) {p : BitVec 16} (hs : s.Open)
    (hp : p ≠ 0) :
    dispatch a crc (m.measure p) s = .next (s.answered a (·.cleared s.cfg.lineSlots crc) (plainReply · m.tokBad)) := by
  have hunsupported : supportedIndex p = false := Bool.eq_false_iff.mpr (mt (supportedIndex_iff p).mp hp)
  refine dispatch_answered hs (fun _ => rfl) fun d u dev hcfg hd _ hreg => ?_
  rw [← hcfg]
  exact m.measure_unsupported p crc hd hreg hunsupported

/-- Settles O31: each verb is the dispatch of its class, which stops before its acquisition. -/
theorem unsupportedIndexClearsTheLines : Obligations.UnsupportedIndexClearsTheLines := by
  unfold Obligations.UnsupportedIndexClearsTheLines
  intro s a q p1 p2 hs hp
  refine ⟨measurementClass.dispatch_unsupported a (crcq q) hs hp,
    concurrentClass.dispatch_unsupported a (crcq q) hs hp, ?_⟩
  rintro i (rfl | rfl)
  · exact highVolumeAsciiClass.dispatch_unsupported a (crcq q) hs hp
  · exact highVolumeByteClass.dispatch_unsupported a (crcq q) hs hp

end Sys2Proof.Machine
end

section
/-! PROOFS. Measurement family, O32 to O37: the acquisition of a served device, cancelled or not, and the one Poll of CONT
(43_commands_measurement.md R190 to R211, 60_exceptions.md R238, R240). -/

namespace Sys2Proof.Machine

/-- The loop of R161 is the cycle of the served device, which writes that device alone. -/
theorem dispatch_served_next {s t : State} {a : Byte} {d : Nat} {dev dev' : Device} {crc : Bool}
    {cycle : Nat → State → Out} (h : Served s a d dev) (hcycle : cycle d (s.activate d crc) = .next t)
    (hdevices : t.devices = s.devices.set d dev') : dispatch a crc cycle s = .next t := by
  rw [dispatch_served h (fun t' ht' k hk => ?_), hcycle]
  obtain rfl : t = t' := Host.Outcome.next.inj (hcycle.symm.trans ht')
  rw [hdevices, List.getElem?_set_ne (Ne.symm hk)]

/-! ### The effects of an acquisition -/

/-- ClearLineBreak at the checkpoint: in hold mode, after a line break (R238). -/
def breakEffects : Mode → Env → List Effect
  | .hold, e => if e.lb then [.clearLineBreak] else []
  | .release, _ => []

/-- How an acquisition that was not cancelled ends: in hold mode with the completion notice (R190 step 11). -/
def deliveryEffects : Mode → Device → List Effect
  | .hold, dev => [.send (dev.address :: crlf), .forceListen]
  | .release, _ => [.forceListen]

theorem acquisitionEffects_eq (mode : Mode) (dev : Device) (token : Bytes) (e : Env) (rest : List Effect) :
    .send (dev.address :: (token ++ crlf)) :: windowEffects mode e ++ rest =
      acquisitionEffects dev token e (breakEffects mode e ++ rest) := by
  cases mode <;> simp [acquisitionEffects, windowEffects, breakEffects]

/-! ### The two ways an acquisition ends -/

theorem MClass.dispatch_cancelled (m : MClass) {s : State} {a : Byte} {d : Nat} {dev : Device} (crc : Bool)
    (h : Served s a d dev) (hvals : s.nextEnv.vals.isSome = true) (hcancel : cancelTest m.mode s.nextEnv dev = true) :
    dispatch a crc (m.measure 0) s = .next (s.afterAcquisition d (dev.cleared s.cfg.lineSlots crc)
      (acquisitionEffects dev m.tokOk s.nextEnv (breakEffects m.mode s.nextEnv ++ [.forceListen]))) := by
  obtain ⟨vals, hvals⟩ := Option.isSome_iff_exists.mp hvals
  refine dispatch_served_next h ?_ rfl
  rw [m.measure_run 0 crc h.here rfl, hvals]
  dsimp only
  rw [if_pos hcancel, List.append_assoc, acquisitionEffects_eq]
  rfl

theorem MClass.dispatch_delivered (m : MClass) {s : State} {a : Byte} {d : Nat} {dev : Device} {vals : Values}
    {ls : List Bytes} (crc : Bool) (h : Served s a d dev) (hvals : s.nextEnv.vals = some vals)
    (hcancel : cancelTest m.mode s.nextEnv dev = false) (hlines : m.produce s.cfg vals = some ls) :
    dispatch a crc (m.measure 0) s = .next (s.afterAcquisition d { dev.cycled crc with lines := ls }
      (acquisitionEffects dev m.tokOk s.nextEnv (breakEffects m.mode s.nextEnv ++ deliveryEffects m.mode dev))) := by
  refine dispatch_served_next h ?_ rfl
  rw [m.measure_run 0 crc h.here rfl, hvals]
  dsimp only
  rw [hcancel, if_neg Bool.false_ne_true, hlines]
  dsimp only
  rw [List.append_assoc, acquisitionEffects_eq]
  cases m.mode <;> rfl

/-! ### MEAS -/

/-- Settles O32: neither cause of a cancellation, hence the lines of PACK and the notice. -/
theorem measurementPacksAndNotifies : Obligations.MeasurementPacksAndNotifies := by
  unfold Obligations.MeasurementPacksAndNotifies
  intro s a q p2 d dev vals ls h hvals hlb hdeact hpack
  have hcancel : cancelTest .hold s.nextEnv dev = false := by rw [cancelTest, hlb, hdeact]; rfl
  have hbreak : breakEffects .hold s.nextEnv = [] := by rw [breakEffects, hlb]; rfl
  have hrun := measurementClass.dispatch_delivered (crcq q) h hvals hcancel hpack
  rw [show measurementClass.mode = .hold from rfl, hbreak] at hrun
  exact ⟨hrun, by cases q <;> rfl⟩

/-- Settles O33: either cause cancels, and only the line break is cleared. -/
theorem measurementCancelled : Obligations.MeasurementCancelled := by
  unfold Obligations.MeasurementCancelled
  intro s a q p2 d dev h hvals hcause
  have hcancel : cancelTest .hold s.nextEnv dev = true := by rw [cancelTest, Bool.or_eq_true]; exact hcause
  have hend : breakEffects .hold s.nextEnv ++ [.forceListen] =
      if s.nextEnv.lb then [.clearLineBreak, .forceListen] else [.forceListen] := by
    rw [breakEffects]
    cases s.nextEnv.lb <;> rfl
  rw [← hend]
  exact measurementClass.dispatch_cancelled (crcq q) h hvals hcancel

/-! ### CONC, HVA and HVB -/

/-- Settles O34: no drained command matches, hence the lines of PACK without a notice. -/
theorem releaseMeasurementPacks : Obligations.ReleaseMeasurementPacks := by
  unfold Obligations.ReleaseMeasurementPacks
  intro s a q p2 d dev vals ls h hvals hquiet hpack
  have hcancel := cancelTest_release_eq_false hquiet
  exact ⟨concurrentClass.dispatch_delivered (crcq q) h hvals hcancel hpack,
    highVolumeAsciiClass.dispatch_delivered (crcq q) h hvals hcancel hpack, by cases q <;> rfl, by cases q <;> rfl⟩

/-- Settles O35: the drained command that matches is what the cancel test looks for. -/
theorem releaseMeasurementCancelled : Obligations.ReleaseMeasurementCancelled := by
  unfold Obligations.ReleaseMeasurementCancelled
  intro s a q p2 d dev h hvals hmatch
  have hcancel : cancelTest .release s.nextEnv dev = true := List.any_eq_true.mpr hmatch
  exact ⟨concurrentClass.dispatch_cancelled (crcq q) h hvals hcancel,
    highVolumeAsciiClass.dispatch_cancelled (crcq q) h hvals hcancel⟩

/-- Settles O36: on both outcomes of the cancel test the lines become the empty ones. -/
theorem highVolumeByteEmptiesTheLines : Obligations.HighVolumeByteEmptiesTheLines := by
  unfold Obligations.HighVolumeByteEmptiesTheLines
  intro s a q p2 d dev h hvals
  refine ⟨?_, by cases q <;> rfl⟩
  cases hcancel : cancelTest .release s.nextEnv dev with
  | true => exact highVolumeByteClass.dispatch_cancelled (crcq q) h hvals hcancel
  | false =>
    obtain ⟨vals, hvals⟩ := Option.isSome_iff_exists.mp hvals
    exact highVolumeByteClass.dispatch_delivered (crcq q) h hvals hcancel rfl

/-! ### CONT -/

theorem exec_cont_served {s : State} {a : Byte} {d : Nat} {dev : Device} {vals : Values} (q : Qualifier)
    (p1 p2 : BitVec 16) (h : Served s a d dev) (hvals : s.nextEnv.vals = some vals) :
    exec (.cont a q p1 p2) s = .next
      { s.afterCycle d (dev.cycled (crcq q)) (.poll :: dataReply dev (continuousPayload s.cfg vals p1) q) with
        envs := s.envs.tail, drawn := s.drawn + 1 } := by
  refine dispatch_served_next h ?_ rfl
  rw [continuousCycle_run p1 q h.here, hvals]
  rfl

theorem continuousPayload_of_value {vals : Values} {p : BitVec 16} {v : F64} (h : vals.toList[p.toNat]? = some v)
    (cfg : Config) : continuousPayload cfg vals p = (encodeValue v 6 cfg.fieldCap false true).text := by
  rw [continuousPayload, valueOperand, h]
  rfl

theorem continuousPayload_of_le {p : BitVec 16} (h : numValues ≤ p.toNat) (cfg : Config) (vals : Values) :
    continuousPayload cfg vals p = [] := by
  have hnone : vals.toList[p.toNat]? = none := List.getElem?_eq_none (by rwa [Vector.length_toList])
  rw [continuousPayload, valueOperand, hnone]

/-- Settles O37: the value `param1` names, on either side of NUM_VALUES. -/
theorem continuousSendsOneValue : Obligations.ContinuousSendsOneValue := by
  unfold Obligations.ContinuousSendsOneValue
  intro s a q p1 p2 d dev vals h hvals
  rw [exec_cont_served q p1 p2 h hvals]
  refine ⟨fun v hv => ?_, fun hbeyond => ?_, by cases q <;> rfl⟩
  · rw [continuousPayload_of_value hv]
  · rw [continuousPayload_of_le hbeyond]

end Sys2Proof.Machine
end

section
/-! PROOFS. Exceptions family, O13 and O19: every answer the loop of R161 can get from a device, from the quiescent point,
and with it what a whole command can answer (42_commands_basic.md R161, 60_exceptions.md R230, R236, R255). -/

namespace Sys2Proof.Machine

/-! ### The answer of one device -/

/-- What R161 does with one device that answers `i`. -/
def serve : Instr → Nat → State → Out
  | .unknown .. => fun d u => .next (u.reject d)
  | i => begin (crcOf i) (cycleOf i)

theorem exec_eq_visit (i : Instr) (s : State) :
    exec i s = visit i.address (serve i) (List.range s.devices.length) s := by
  cases i <;> rfl

theorem serve_of_not_unknown {i : Instr} (h : i.mclass ≠ .unknown) : serve i = begin (crcOf i) (cycleOf i) := by
  cases i
  case unknown => exact absurd rfl h
  all_goals rfl

/-- Every answer of a device that is served at the quiescent point: a rejection, a cycle with a next state, or a refusal
because PACK has too few slots. -/
inductive Answer (i : Instr) (u : State) (d : Nat) : Out → Prop
  | rejected : Answer i u d (.next (u.reject d))
  | cycled {t : State} {dev dev' : Device} {effs : List Effect} (hd : u.devices[d]? = some dev)
      (hready : dev.state = .ready) (hres : CycleResult i u t d dev dev' effs) : Answer i u d (.next t)
  | exhausted {cap : Nat} {vals : Values} (hpack : packAt cap u.cfg vals = none) :
      Answer i u d (.refused (.lineSlotsExhausted d))

/-- The cycle of a measurement-class verb has a next state, or its class produces no lines (R146 (ii)). -/
theorem MClass.measure_answers (m : MClass) (p : BitVec 16) {u : State} {d : Nat} {dev : Device} (crc : Bool)
    (h : u.devices[d]? = some dev) :
    (∃ t, m.measure p d (u.activate d crc) = .next t) ∨
      m.measure p d (u.activate d crc) = .refused (.lineSlotsExhausted d) ∧ ∃ vals, m.produce u.cfg vals = none := by
  by_cases hp : supportedIndex p = true
  · rw [m.measure_run p crc h hp]
    split
    · exact .inl ⟨_, rfl⟩
    · next vals _ =>
      split
      · exact .inl ⟨_, rfl⟩
      · split
        · exact .inl ⟨_, rfl⟩
        · next hlines => exact .inr ⟨rfl, vals, hlines⟩
  · exact .inl ⟨_, if_neg hp⟩

/-- The cycle of any instruction has a next state, or PACK has too few slots. -/
theorem cycleOf_answers (i : Instr) {u : State} {d : Nat} {dev : Device} (h : u.devices[d]? = some dev) :
    (∃ t, cycleOf i d (u.activate d (crcOf i)) = .next t) ∨
      cycleOf i d (u.activate d (crcOf i)) = .refused (.lineSlotsExhausted d) ∧
        ∃ cap vals, packAt cap u.cfg vals = none := by
  cases i with
  | meas a q p1 p2 =>
    exact (measurementClass.measure_answers p1 (crcq q) h).imp_right fun ⟨hr, hpack⟩ => ⟨hr, shortCap, hpack⟩
  | conc a q p1 p2 =>
    exact (concurrentClass.measure_answers p1 (crcq q) h).imp_right fun ⟨hr, hpack⟩ => ⟨hr, longCap, hpack⟩
  | hva a q p1 p2 =>
    exact (highVolumeAsciiClass.measure_answers p1 (crcq q) h).imp_right fun ⟨hr, hpack⟩ => ⟨hr, longCap, hpack⟩
  | hvb a q p1 p2 =>
    exact (highVolumeByteClass.measure_answers p1 (crcq q) h).imp_right fun ⟨_, _, hnone⟩ => nomatch hnone
  | cont a q p1 p2 =>
    rw [show cycleOf (.cont a q p1 p2) = continuousCycle p1 from rfl, show crcOf (.cont a q p1 p2) = crcq q from rfl,
      continuousCycle_run p1 q h]
    split <;> exact .inl ⟨_, rfl⟩
  | aqry | ack | ident | identM | identC | identR | identHA | identHB | identV | achg | data | bdata | verify | unknown =>
    exact .inl ⟨_, rfl⟩

theorem State.Quiescent.unclaimed {s : State} (h : s.Quiescent) : s.claimed = false :=
  s.claimed_iff.mpr ⟨fun dev hdev => (h.devices dev hdev).1, h.registry⟩

theorem serve_answer {i : Instr} {u : State} {d : Nat} (hu : u.Quiescent) (hans : u.answers i.address d = true) :
    Answer i u d (serve i d u) := by
  by_cases hk : i.mclass = .unknown
  · cases i
    case unknown => exact .rejected
    all_goals nomatch hk
  · obtain ⟨-, dev, hd, -, hready⟩ := State.answers_inv hans
    rw [serve_of_not_unknown hk, begin_unclaimed hu.unclaimed]
    rcases cycleOf_answers i hd with ⟨t, ht⟩ | ⟨hrefused, cap, vals, hpack⟩
    · obtain ⟨dev', effs, hres⟩ := cycleOf_inv hk hu.registry hd ht
      rw [ht]
      exact .cycled hd hready hres
    · rw [hrefused]
      exact .exhausted hpack

/-! ### The loop over the devices -/

/-- The rule of the loop: `P n` holds while `n` devices are left to try, and `R` of the answer of the whole loop, which is
the first one that is no next state, or the last state. -/
theorem visit_rule {a : Byte} {act : Nat → State → Out} (P : Nat → State → Prop) (R : Out → Prop)
    (hskip : ∀ n u, P (n + 1) u → P n u)
    (hact : ∀ n d u, P (n + 1) u → u.answers a d = true →
      (∃ v, act d u = .next v ∧ P n v) ∨ ((∀ v, act d u ≠ .next v) ∧ R (act d u)))
    (hend : ∀ u, P 0 u → R (.next u)) :
    ∀ (ds : List Nat) (s : State), P ds.length s → R (visit a act ds s) := by
  intro ds
  induction ds with
  | nil => exact hend
  | cons d ds ih =>
    intro s hs
    rw [visit_cons]
    split
    · next hans =>
      rcases hact ds.length d s hs hans with ⟨v, hv, hP⟩ | ⟨hstop, hR⟩
      · rw [hv]
        exact ih v hP
      · split
        · next v hv => exact absurd hv (hstop v)
        · next r hr => exact hr ▸ hR
        · next r hr => exact hr ▸ hR
    · exact ih s (hskip ds.length s hs)

/-! ### No fault from a settled state -/

theorem exec_ne_fault (i : Instr) {s : State} (hs : s.Settled) (r : Fault) : exec i s ≠ .fault r := by
  rw [exec_eq_visit]
  refine visit_rule (fun _ => State.Settled) (· ≠ .fault r) (fun _ _ hu => hu) (fun _ d u hu hans => ?_)
    (fun _ _ => nofun) _ s hs
  have hquiescent := hu.quiescent (State.answers_inv hans).1
  have hanswer := serve_answer hquiescent hans
  generalize serve i d u = o at hanswer ⊢
  cases hanswer with
  | rejected => exact .inl ⟨_, rfl, hu.congr rfl rfl rfl⟩
  | cycled hd _ hres => exact .inl ⟨_, rfl, hres.settled hd hquiescent⟩
  | exhausted _ => exact .inr ⟨nofun, nofun⟩

/-- Settles O13: a settled engine is blocked, and serves nobody, or unclaimed, and passes the check of R161. -/
theorem lawfulTrafficNeverViolatesTheContract : Obligations.LawfulTrafficNeverViolatesTheContract := by
  unfold Obligations.LawfulTrafficNeverViolatesTheContract
  intro s hs _
  refine ⟨fun d => ?_, fun i d => exec_ne_fault i hs _⟩
  unfold step
  split
  · next w t hfetch =>
    have ht : t.Settled := by
      rcases (fetch_inv hfetch).2 with ⟨rest, -, rfl⟩ | ⟨rest, -, -, rfl⟩ <;> exact hs.congr rfl rfl rfl
    exact exec_ne_fault (decode w) ht _
  · nofun

/-! ### Every command completes -/

/-- The loop over the devices of `s` has come to `u` with `n` devices left, and what their cycles ask for is there: slots
for all values, and one answer with values for each. -/
structure Provided (s : State) (n : Nat) (u : State) : Prop where
  quiescent : u.Quiescent
  slots : numValues < u.cfg.lineSlots
  envs : n ≤ u.envs.length
  values : ∀ e ∈ u.envs, e.vals.isSome = true
  states : u.devices.map (·.state) = s.devices.map (·.state)

theorem Provided.nextEnv {s u : State} {n : Nat} (h : Provided s (n + 1) u) : u.nextEnv.vals ≠ none := by
  intro hnone
  unfold State.nextEnv at hnone
  split at hnone
  · next e rest henvs => simpa [hnone] using h.values e (by simp [henvs])
  · next henvs => simpa [henvs] using h.envs

theorem Provided.reject {s u : State} {n : Nat} (h : Provided s (n + 1) u) (d : Nat) : Provided s n (u.reject d) where
  quiescent := ⟨h.quiescent.running, h.quiescent.registry, h.quiescent.devices⟩
  slots := h.slots
  envs := Nat.le_of_succ_le h.envs
  values := h.values
  states := h.states

/-- A cycle draws at most one answer, and ends in Ready because that answer comes. -/
theorem Provided.cycle {s u t : State} {n d : Nat} {i : Instr} {dev dev' : Device} {effs : List Effect}
    (h : Provided s (n + 1) u) (hd : u.devices[d]? = some dev) (hready : dev.state = .ready)
    (hres : CycleResult i u t d dev dev' effs) : Provided s n t := by
  rcases hres.ending with ⟨-, hst, -, hblk, -⟩ | ⟨hheld, -⟩
  · have hdrawn : n ≤ t.envs.length ∧ t.envs ⊆ u.envs := by
      have hlen := h.envs
      rcases hres.envs with ⟨henvs, -⟩ | ⟨henvs, -⟩ <;> rw [henvs]
      · exact ⟨by omega, List.Subset.refl _⟩
      · exact ⟨by rw [List.length_tail]; omega, List.tail_subset _⟩
    exact {
      quiescent := (hres.settled hd h.quiescent).quiescent (hblk.trans h.quiescent.running)
      slots := hres.cfg ▸ h.slots
      envs := hdrawn.1
      values := fun e he => h.values e (hdrawn.2 he)
      states := (hres.map_devices _ hd (hst.trans hready.symm)).trans h.states }
  · exact absurd hheld h.nextEnv

theorem packAt_ne_none {cfg : Config} (h : numValues < cfg.lineSlots) (cap : Nat) (vals : Values) :
    packAt cap cfg vals ≠ none :=
  Option.isSome_iff_ne_none.mp (pack_isSome_of_length_lt (by rwa [Vector.length_toList]) _ _ _ _)

/-- Settles O19: each device's answer leaves enough for the devices after it. -/
theorem everyCommandReturnsToReady : Obligations.EveryCommandReturnsToReady := by
  unfold Obligations.EveryCommandReturnsToReady
  intro i s hq hslots henvs hvalues
  rw [exec_eq_visit]
  refine visit_rule (Provided s)
    (fun o => ∃ t, o = .next t ∧ t.Quiescent ∧ t.devices.map (·.state) = s.devices.map (·.state))
    (fun n u hu => { hu with envs := Nat.le_of_succ_le hu.envs }) (fun n d u hu hans => ?_)
    (fun u hu => ⟨u, rfl, hu.quiescent, hu.states⟩) _ s ⟨hq, hslots, by rwa [List.length_range], hvalues, rfl⟩
  have hanswer := serve_answer hu.quiescent hans
  generalize serve i d u = o at hanswer ⊢
  cases hanswer with
  | rejected => exact .inl ⟨_, rfl, hu.reject d⟩
  | cycled hd hready hres => exact .inl ⟨_, rfl, hu.cycle hd hready hres⟩
  | exhausted hpack => exact absurd hpack (packAt_ne_none hu.slots _ _)

end Sys2Proof.Machine
end

section
/-! PROOFS. Exceptions family, O15 and O38: a step without a record to dispatch, and an engine held at a Poll that never
returns (30_encoding.md R83, 42_commands_basic.md R167, 60_exceptions.md R235, R252, R255). -/

namespace Sys2Proof.Machine

/-! ### Steps without a record -/

/-- A blocked engine fetches nothing and takes no input (R255, log entry 7). -/
theorem step_of_blocked {s : State} (h : s.blocked = true) : step s = .next s := by
  simp [step, fetch, betweenCycles, h]

theorem step_of_input {s t : State} {x : Input} {rest : List Input} (hb : s.blocked = false) (hp : s.pending = [])
    (hi : s.inputs = x :: rest) (hx : ∀ w, x ≠ .record w) (ht : hostStep x { s with inputs := rest } = t) :
    step s = .next t := by
  subst ht
  have hfetch : fetch s = none := by
    cases x
    case record w => exact absurd rfl (hx w)
    all_goals simp [fetch, hb, hp, hi]
  simp [step, hfetch, betweenCycles, hb, hi]

/-! ### Host steps -/

theorem State.updateDev_eq {u : State} {d : Nat} {dev : Device} (h : u.devices[d]? = some dev) (f : Device → Device) :
    u.updateDev d f = { u with devices := u.devices.set d (f dev) } := by
  rw [State.updateDev, devices_modify_eq_set _ _ _ _ h]

theorem State.updateDev_absent {u : State} {d : Nat} (h : u.devices.length ≤ d) (f : Device → Device) :
    u.updateDev d f = u := by
  rw [State.updateDev, List.modify_eq_self h]

/-- The host's SetAddress on a device that exists (R167). -/
theorem hostStep_setAddress {u : State} {d : Nat} {dev : Device} (h : u.devices[d]? = some dev) (b : Byte) :
    hostStep (.setAddress d b) u =
      if alphanumeric b then
        { u with hostResult := some true, devices := u.devices.set d { dev with address := b },
                 storage := mirrored dev b u.storage, trace := u.trace ++ mirrorEffects dev b }
      else { u with hostResult := some false } := by
  simp only [hostStep, if_pos (List.getElem?_eq_some_iff.mp h).1, State.setAddress_run b h]
  split <;> rfl

/-- A host step that names a device beyond the last one changes nothing (log entry 12). -/
theorem hostStep_absent {u : State} {d : Nat} {b : Byte} {v : Bool} {x : Input} (h : u.devices.length ≤ d)
    (hx : x ∈ [Input.setLowPower d, .setReady d, .forceActive d v, .setAddress d b]) : hostStep x u = u := by
  simp only [List.mem_cons, List.not_mem_nil, or_false] at hx
  rcases hx with rfl | rfl | rfl | rfl
  · exact State.updateDev_absent h _
  · exact State.updateDev_absent h _
  · exact State.updateDev_absent h _
  · exact if_neg (Nat.not_lt.mpr h)

/-- Settles O15: a step is the host step of the oldest input, whose effect is read off input by input. -/
theorem stepBetweenCommands : Obligations.StepBetweenCommands := by
  unfold Obligations.StepBetweenCommands
  refine ⟨fun s hb => step_of_blocked hb, fun s hb hp => ⟨fun hi => ?idle, fun rest =>
    ⟨fun hi => step_of_input hb hp hi nofun rfl, fun hi => step_of_input hb hp hi nofun rfl,
      fun r hi => step_of_input hb hp hi nofun rfl, fun d dev hd => ?present, fun d b v x hd hx hi => ?absent⟩⟩⟩
  case idle => exact step_of_over (State.over_iff.mpr ⟨hb, hp, hi⟩)
  case present =>
    have hd : (State.devices { s with inputs := rest })[d]? = some dev := hd
    refine ⟨fun hi => step_of_input hb hp hi nofun (State.updateDev_eq hd _),
      fun hi => step_of_input hb hp hi nofun (State.updateDev_eq hd _),
      fun v hi => step_of_input hb hp hi nofun (State.updateDev_eq hd _),
      fun b hi => ⟨fun hbyte => step_of_input hb hp hi nofun ?_, fun hbyte => step_of_input hb hp hi nofun ?_⟩⟩ <;>
      rw [hostStep_setAddress hd, hbyte]
    · exact if_neg Bool.false_ne_true
    · exact if_pos rfl
  case absent => exact step_of_input hb hp hi (by rintro w rfl; simp at hx) (hostStep_absent hd hx)

/-! ### A Poll that never returns -/

/-- A served acquisition whose Poll never returns stays in its window, with the synchronous reply sent (R190, R255). -/
theorem MClass.dispatch_held (m : MClass) {s : State} {a : Byte} {d : Nat} {dev : Device} (crc : Bool)
    (h : Served s a d dev) (hvals : s.nextEnv.vals = none) :
    dispatch a crc (m.measure 0) s = .next { s.afterCycle d (dev.measuring m.st crc)
        [.send (dev.address :: (m.tokOk ++ crlf)), .delay, .poll] with
      envs := s.envs.tail, drawn := s.drawn + 1, blocked := true } := by
  refine dispatch_served_next h ?_ rfl
  rw [m.measure_run 0 crc h.here rfl, hvals]
  rfl

/-- CONT has sent nothing when its Poll does not return, and still stands in the registry (R211, R255). -/
theorem exec_cont_held {s : State} {a : Byte} {d : Nat} {dev : Device} (q : Qualifier) (p1 p2 : BitVec 16)
    (h : Served s a d dev) (hvals : s.nextEnv.vals = none) :
    exec (.cont a q p1 p2) s = .next { s.afterCycle d (dev.measuring .continuous (crcq q)) [.poll] with
      registry := some d, envs := s.envs.tail, drawn := s.drawn + 1, blocked := true } := by
  refine dispatch_served_next h ?_ rfl
  rw [continuousCycle_run p1 q h.here, hvals]
  rfl

/-- Settles O38: every polling verb is held inside its cycle, and a blocked engine steps to itself. -/
theorem blockedPollHoldsTheEngine : Obligations.BlockedPollHoldsTheEngine := by
  unfold Obligations.BlockedPollHoldsTheEngine
  intro s a q p1 p2 d dev h hvals
  refine ⟨fun i st tok hi => ?_, _, exec_cont_held q p1 p2 h hvals, step_of_blocked rfl, rfl⟩
  simp only [List.mem_cons, List.not_mem_nil, or_false, Prod.mk.injEq] at hi
  rcases hi with ⟨rfl, rfl, rfl⟩ | ⟨rfl, rfl, rfl⟩ | ⟨rfl, rfl, rfl⟩ | ⟨rfl, rfl, rfl⟩
  · exact ⟨_, measurementClass.dispatch_held (crcq q) h hvals, step_of_blocked rfl, rfl⟩
  · exact ⟨_, concurrentClass.dispatch_held (crcq q) h hvals, step_of_blocked rfl, rfl⟩
  · exact ⟨_, highVolumeAsciiClass.dispatch_held (crcq q) h hvals, step_of_blocked rfl, rfl⟩
  · exact ⟨_, highVolumeByteClass.dispatch_held (crcq q) h hvals, step_of_blocked rfl, rfl⟩

end Sys2Proof.Machine
end

section
/-! PROOFS. Reset family, O7: what device construction leaves in every register (70_reset_and_hazards.md R260). -/

namespace Sys2Proof.Machine

theorem boot_devices_getElem? {cfg : Config} {d : Nat} {c : DeviceConfig} (storage : Memory)
    (h : cfg.devices[d]? = some c) :
    (State.boot cfg storage).devices[d]? = some (resetDevice cfg.lineSlots storage c) :=
  List.getElem?_map.trans (congrArg _ h)

/-- A stored alphanumeric byte wins over the configured initial address (R260). -/
theorem resetAddress_stored {storage : Memory} {c : DeviceConfig} {k : Nat} (hslot : c.slot = some k)
    (halnum : alphanumeric (storage.read k) = true) : resetAddress storage c = storage.read k := by
  simp [resetAddress, hslot, halnum]

/-- Without a storage slot, or with a byte there that is not alphanumeric, the configured address decides (R260). -/
theorem resetAddress_configured {storage : Memory} {c : DeviceConfig}
    (h : ∀ k, c.slot = some k → alphanumeric (storage.read k) = false) :
    resetAddress storage c = if alphanumeric c.initialAddress then c.initialAddress else defaultAddress := by
  cases hslot : c.slot with
  | none => simp [resetAddress, hslot]
  | some k => simp [resetAddress, hslot, h k hslot]

/-- Settles O7: each device is the reset device of its configuration, whose address the two lemmas above give. -/
theorem resetLeavesEveryRegister : Obligations.ResetLeavesEveryRegister := by
  unfold Obligations.ResetLeavesEveryRegister
  intro cfg storage
  refine ⟨List.length_map _, fun d c hc => ?device, rfl, rfl, rfl, rfl⟩
  case device =>
    exact ⟨_, boot_devices_getElem? storage hc, rfl, rfl, rfl, rfl, rfl, fun _ => resetAddress_stored,
      resetAddress_configured⟩

end Sys2Proof.Machine
end

section
/-! PROOFS. O6: the decoder on the words of the command vectors (95_test_vectors.md 2.3). -/

namespace Sys2Proof.Machine

/-- Settles O6: the decoder computes, so it is run on each of the nine closed words and its verdict compared. -/
theorem vectorWordsDecode : Obligations.VectorWordsDecode := by
  unfold Obligations.VectorWordsDecode
  decide

end Sys2Proof.Machine
end
